-- ==== Sys2Proof/Word.lean ====
section
/-! DEFINITION. The word types of the Cell-frame parser: bytes and byte sequences (00_scope.md R9), and the widths TCC fixes
for a circuit id and a command (10_state.md R14). -/

namespace Sys2Proof

/-- A byte, 0 to 255 (R9). -/
abbrev Byte := BitVec 8

/-- A byte sequence (R9): `B[0]` first. Its length is a natural number and nothing wraps (R121). -/
abbrev Bytes := List Byte

/-- A circuit id: "unsigned 32-bit integer" (R16). -/
abbrev CircId := BitVec 32

/-- A command: "unsigned 8-bit integer ... full numeric space 0-255" (R17). -/
abbrev Command := BitVec 8

/-- `zeros(n)` (R9). -/
def zeros (n : Nat) : Bytes := List.replicate n 0

end Sys2Proof
end

