-- ==== Sys2Proof/Config.lean ====
section
/-! DEFINITION. What is fixed for the machine: the constants of 00_scope.md R6, the open parameter LEN_W of R8, and the free
values of everything the spec calls unspecified (10_state.md R30, R31; 30_encoding.md R68;
93_implementation_defined.md U1, U2, U5, U9). The free values have no argument that tells instances or runs apart (log 19). -/

namespace Sys2Proof.Config

/-- `LINK_VERSION`, the one legal value (R6, R7). -/
def linkVersion : BitVec 8 := 4

/-- `CIRC_ID_LEN` (R6): the bytes of the circuit-id field. -/
def circIdLen : Nat := 4

/-- `CMD_LEN` (R6): the byte of the command field. -/
def cmdLen : Nat := 1

/-- `HDR_LEN` (R6): circuit id and command. -/
def hdrLen : Nat := 5

/-- `VAR_PREFIX_LEN` (R6): the bytes of the Length field. -/
def varPrefixLen : Nat := 2

/-- `VAR_HDR_LEN` (R6): header and Length field. -/
def varHdrLen : Nat := 7

/-- `CELL_DATA_LEN` (R6). -/
def cellDataLen : Nat := 509

/-- `FIXED_CELL_LEN` (R6). -/
def fixedCellLen : Nat := 514

/-- `MAX_VAR_BODY` (R6): "the field cannot represent more". -/
def maxVarBody : Nat := 65535

/-- How far `LEN_W` lies above its least legal value: open (R8, U9), so no body (log 2). -/
opaque lenWAbove17 : Nat

/-- `LEN_W`, the width of `IN_LEN`, `OUT_LEN` and of buffer addresses: any value of at least 17 (R8, log 2). -/
def lenW : Nat := 17 + lenWAbove17

/-- `REASON` after a response that does not define it, indexed by the count of responses (R21, U5, log 7). -/
opaque freeReason : Nat → BitVec 1

/-- `RSP_CIRC_ID` after a response that does not define it (R22, U1, log 7). -/
opaque freeRspCircId : Nat → BitVec 32

/-- `RSP_CMD` after a response that does not define it (R23, U1, log 7). -/
opaque freeRspCmd : Nat → BitVec 8

/-- `OUT_LEN` after a failed transaction, before it is cut to `LEN_W` bits (R24, U1, log 7). -/
opaque freeOutLen : Nat → Nat

/-- `SEL[7:0]` of a DECODE whose `IN_LEN` is below 5, indexed by the count of responses (R68, log 22). -/
opaque freeSelCmd : Nat → BitVec 8

/-- The byte an `OBUF` address shows where no rule defines it: by the count of responses and the address (R25, U1, log 6). -/
opaque freeObuf : Nat → Nat → Byte

/-- The byte an `IBUF` address holds while the host has not written it since reset: by the count of resets and the address
(R31, U2, log 5). -/
opaque freeIbuf : Nat → Nat → Byte

end Sys2Proof.Config
end

