-- ==== Sys2Proof/Syntax.lean ====
section
/-! DEFINITION. The instructions: one constructor per mnemonic of spec/opcode_table.json (43 rows, 17 mnemonics; the rows of one
mnemonic are the aligned blocks of its command operand, 30_encoding.md R60, R72, log 17). Also the stage labels of
10_state.md R28, the command classes of R59 and the selectors an instruction is encoded in (R68, R72). -/

namespace Sys2Proof

/-- The stage cursor (R28, and the last row of R31's table). D1 and D2 are folded into D0, D4 and E4 into the stage before them,
because the table has no row for them (log 11). -/
inductive Stage where
  /-- no transaction in progress (R31, R147) -/
  | idle
  /-- D0 to D2: length check, header, classification -/
  | d0
  /-- D3F, then D4: fixed-length extraction and the response -/
  | d3f
  /-- D3V, then D4: variable-length extraction and the response -/
  | d3v
  /-- E0: the fixed-length bound -/
  | e0
  /-- E0 and E1 taken as one, the stage of the composite row VALIDATE (R72, R97, log 12) -/
  | e01
  /-- E1: the circuit-id policy -/
  | e1
  /-- E2: the header bytes -/
  | e2
  /-- E3V, then E4: Length, body and the response -/
  | e3v
  /-- E3F, then E4: body, padding and the response -/
  | e3f
  deriving DecidableEq, Repr

/-- The six classes of command values (R59). -/
inductive CmdClass where
  | cmd0
  | cmd1to6
  | cmd7
  | cmd8to127
  | cmd128
  | cmd129to255
  deriving DecidableEq, Repr

/-- The micro-operations (R11, R72). -/
inductive MicroOp where
  | hdrParse
  | extFix
  | extVar
  | valLen
  | valCirc
  | validate
  | encHdr
  | encVar
  | encFix
  deriving DecidableEq, Repr

/-- The instructions. -/
inductive Instr where
  /-- DECODE, `OP = 0` (R107, R123). -/
  | decode
  /-- ENCODE, `OP = 1` (R108, R124). -/
  | encode
  /-- CMD0: a transaction whose command is 0 (R75). -/
  | cmd0
  /-- CMD1_6: a transaction whose command is `m`, 1 to 6 (R76). -/
  | cmd1to6 (m : Command)
  /-- CMD7: a transaction whose command is 7 (R77). -/
  | cmd7
  /-- CMD8_127: a transaction whose command is `m`, 8 to 127 (R78). -/
  | cmd8to127 (m : Command)
  /-- CMD128: a transaction whose command is 128 (R79). -/
  | cmd128
  /-- CMD129_255: a transaction whose command is `m`, 129 to 255 (R80). -/
  | cmd129to255 (m : Command)
  /-- HDR.PARSE (R85). Its selector's command bits are all don't-care: the command is what it reads. -/
  | hdrParse
  /-- EXT.FIX for the command `m` (R90). -/
  | extFix (m : Command)
  /-- EXT.VAR for the command `m` (R92). -/
  | extVar (m : Command)
  /-- VAL.LEN for the command `m` (R95). -/
  | valLen (m : Command)
  /-- VAL.CIRC for the command `m` (R96). -/
  | valCirc (m : Command)
  /-- VALIDATE for the command `m` (R97): VAL.LEN, then VAL.CIRC. -/
  | validate (m : Command)
  /-- ENC.HDR for the command `m` (R100). -/
  | encHdr (m : Command)
  /-- ENC.VAR for the command `m` (R102). -/
  | encVar (m : Command)
  /-- ENC.FIX for the command `m` (R104). -/
  | encFix (m : Command)
  deriving DecidableEq, Repr

/-- What selects an instruction, one alternative per format of opcode_table.json (R72): `OP` for REQ, the command byte for F
and V, and for UOP the 9-bit `SEL = {OP, cmd}` (R68) at a stage (R28), since several micro-operations share a selector and the
stage says which of them runs. -/
inductive Selector where
  | req (op : BitVec 1)
  | cmd (m : Command)
  | uop (stage : Stage) (sel : BitVec 9)
  deriving DecidableEq, Repr

end Sys2Proof
end

