-- ==== Sys2Proof/WellFormed.lean ====
section
/-! DEFINITION. Which instructions are well-formed: the command operand lies in the values of the instruction's rows in
spec/opcode_table.json (30_encoding.md R59, R72). -/

namespace Sys2Proof

/-- The operand check of each instruction. The ranges are the `values` and `commands` columns of its rows. -/
def Instr.wellFormed : Instr → Bool
  | .decode => true
  | .encode => true
  | .cmd0 => true
  | .cmd1to6 m => decide (1 ≤ m.toNat ∧ m.toNat ≤ 6)
  | .cmd7 => true
  | .cmd8to127 m => decide (8 ≤ m.toNat ∧ m.toNat ≤ 127)
  | .cmd128 => true
  | .cmd129to255 m => decide (129 ≤ m.toNat)
  | .hdrParse => true
  | .extFix m => decide (m.toNat ≤ 6 ∨ (8 ≤ m.toNat ∧ m.toNat ≤ 127))
  | .extVar m => decide (m.toNat = 7 ∨ 128 ≤ m.toNat)
  | .valLen _ => true
  | .valCirc _ => true
  | .validate _ => true
  | .encHdr _ => true
  | .encVar m => decide (m.toNat = 7 ∨ 128 ≤ m.toNat)
  | .encFix m => decide (m.toNat ≤ 6 ∨ (8 ≤ m.toNat ∧ m.toNat ≤ 127))

end Sys2Proof
end

