-- ==== Sys2Proof/Decode.lean ====
section
/-! DEFINITION. The selector decoder and encoder (30_encoding.md R58 to R60, R68, R72), written as the rows of
spec/opcode_table.json, and the reading of a bare table word (`decodeTableWord`). What the hardware calls DECODE and ENCODE of a
frame is not here but in Machine/Operations.lean. -/

namespace Sys2Proof

/-- Why a selector stands for no instruction. -/
inductive Reject where
  /-- no row of the table runs at this stage with this `SEL` (R68, R72) -/
  | noRow (stage : Stage) (sel : BitVec 9)
  /-- no block of R60 holds this command: never given, since the blocks cover 0 to 255 (R59, R61) -/
  | noBlock (m : Command)
  /-- the frame is too short to hold the command byte that would select a class (R68: "defined only when IN_LEN >= 5") -/
  | noCommandByte
  deriving DecidableEq, Repr

/-! ## The rows of opcode_table.json -/

/-- An F or V row: `m` is in it when `(m AND mask) = value` (R60). -/
structure CmdRow where
  cls : CmdClass
  value : BitVec 8
  mask : BitVec 8
  deriving DecidableEq, Repr

/-- A UOP row: `SEL` is in it when `(SEL AND mask) = value` (R68, R72). -/
structure UopRow where
  op : MicroOp
  value : BitVec 9
  mask : BitVec 9
  deriving DecidableEq, Repr

/-- The 18 blocks of R60, in the table's order. -/
def cmdRows : List CmdRow :=
  [⟨.cmd0, 0x00, 0xFF⟩,
   ⟨.cmd1to6, 0x01, 0xFF⟩, ⟨.cmd1to6, 0x02, 0xFE⟩, ⟨.cmd1to6, 0x04, 0xFE⟩, ⟨.cmd1to6, 0x06, 0xFF⟩,
   ⟨.cmd7, 0x07, 0xFF⟩,
   ⟨.cmd8to127, 0x08, 0xF8⟩, ⟨.cmd8to127, 0x10, 0xF0⟩, ⟨.cmd8to127, 0x20, 0xE0⟩, ⟨.cmd8to127, 0x40, 0xC0⟩,
   ⟨.cmd128, 0x80, 0xFF⟩,
   ⟨.cmd129to255, 0x81, 0xFF⟩, ⟨.cmd129to255, 0x82, 0xFE⟩, ⟨.cmd129to255, 0x84, 0xFC⟩, ⟨.cmd129to255, 0x88, 0xF8⟩,
   ⟨.cmd129to255, 0x90, 0xF0⟩, ⟨.cmd129to255, 0xA0, 0xE0⟩, ⟨.cmd129to255, 0xC0, 0xC0⟩]

/-- The 23 UOP rows, in the table's order. -/
def uopRows : List UopRow :=
  [⟨.hdrParse, 0x000, 0x100⟩,
   ⟨.extFix, 0x000, 0x1FC⟩, ⟨.extFix, 0x004, 0x1FE⟩, ⟨.extFix, 0x006, 0x1FF⟩, ⟨.extFix, 0x008, 0x1F8⟩,
   ⟨.extFix, 0x010, 0x1F0⟩, ⟨.extFix, 0x020, 0x1E0⟩, ⟨.extFix, 0x040, 0x1C0⟩,
   ⟨.extVar, 0x007, 0x1FF⟩, ⟨.extVar, 0x080, 0x180⟩,
   ⟨.valLen, 0x100, 0x100⟩, ⟨.valCirc, 0x100, 0x100⟩, ⟨.validate, 0x100, 0x100⟩, ⟨.encHdr, 0x100, 0x100⟩,
   ⟨.encVar, 0x107, 0x1FF⟩, ⟨.encVar, 0x180, 0x180⟩,
   ⟨.encFix, 0x100, 0x1FC⟩, ⟨.encFix, 0x104, 0x1FE⟩, ⟨.encFix, 0x106, 0x1FF⟩, ⟨.encFix, 0x108, 0x1F8⟩,
   ⟨.encFix, 0x110, 0x1F0⟩, ⟨.encFix, 0x120, 0x1E0⟩, ⟨.encFix, 0x140, 0x1C0⟩]

/-- Membership of a command in a block (R60). -/
def CmdRow.matches (r : CmdRow) (m : Command) : Bool := m &&& r.mask == r.value

/-- Membership of a selector in a row (R72). -/
def UopRow.matches (r : UopRow) (sel : BitVec 9) : Bool := sel &&& r.mask == r.value

/-- The stage each micro-operation runs at (R28, and the rows' `stage` column). -/
def MicroOp.stage : MicroOp → Stage
  | .hdrParse => .d0
  | .extFix => .d3f
  | .extVar => .d3v
  | .valLen => .e0
  | .valCirc => .e1
  | .validate => .e01
  | .encHdr => .e2
  | .encVar => .e3v
  | .encFix => .e3f

/-! ## The selector's fields (R68) -/

/-- `SEL = {OP, cmd}`. -/
def selOf (op : BitVec 1) (m : Command) : BitVec 9 := op ++ m

/-- `SEL[8]`. -/
def selOp (sel : BitVec 9) : BitVec 1 := sel.extractLsb' 8 1

/-- `SEL[7:0]`. -/
def selCmd (sel : BitVec 9) : Command := sel.extractLsb' 0 8

/-! ## The decoder -/

/-- The instruction of a command of a class (R59). -/
def CmdClass.instr (m : Command) : CmdClass → Instr
  | .cmd0 => .cmd0
  | .cmd1to6 => .cmd1to6 m
  | .cmd7 => .cmd7
  | .cmd8to127 => .cmd8to127 m
  | .cmd128 => .cmd128
  | .cmd129to255 => .cmd129to255 m

/-- The instruction of a micro-operation for a governing command. -/
def MicroOp.instr (m : Command) : MicroOp → Instr
  | .hdrParse => .hdrParse
  | .extFix => .extFix m
  | .extVar => .extVar m
  | .valLen => .valLen m
  | .valCirc => .valCirc m
  | .validate => .validate m
  | .encHdr => .encHdr m
  | .encVar => .encVar m
  | .encFix => .encFix m

/-- `OP = 0` selects DECODE, `OP = 1` selects ENCODE; there is no third operation (R15). -/
def decodeOp (op : BitVec 1) : Instr := if op = 0#1 then .decode else .encode

/-- The class instruction of a command byte: the block it lies in (R60). The blocks cover 0 to 255 (R59, R61), so the rejection
is never given. -/
def decodeCommand (m : Command) : Except Reject Instr :=
  match cmdRows.find? (fun r => r.matches m) with
  | some r => .ok (r.cls.instr m)
  | none => .error (.noBlock m)

/-- The micro-operation that runs at a stage for a selector (R28, R68, R72). -/
def decodeUop (stage : Stage) (sel : BitVec 9) : Except Reject Instr :=
  match uopRows.find? (fun r => r.op.stage == stage && r.matches sel) with
  | some r => .ok (r.op.instr (selCmd sel))
  | none => .error (.noRow stage sel)

/-- The decoder: total on every selector, and a selector that is in no row is rejected by name. -/
def decodeSelector : Selector → Except Reject Instr
  | .req op => .ok (decodeOp op)
  | .cmd m => decodeCommand m
  | .uop stage sel => decodeUop stage sel

/-- The class instruction a frame selects: by the command, its byte 4 (R51, R55, R58). Total on any bytes. -/
def decodeFrameCommand (W : Bytes) : Except Reject Instr :=
  match W with
  | _ :: _ :: _ :: _ :: m :: _ => decodeCommand m
  | _ => .error .noCommandByte

/-! ## The encoder -/

/-- The selector of an instruction (R15, R59, R68). The don't-care bits of HDR.PARSE are written as zeros. -/
def Instr.selector : Instr → Selector
  | .decode => .req 0
  | .encode => .req 1
  | .cmd0 => .cmd 0
  | .cmd1to6 m => .cmd m
  | .cmd7 => .cmd 7
  | .cmd8to127 m => .cmd m
  | .cmd128 => .cmd 128
  | .cmd129to255 m => .cmd m
  | .hdrParse => .uop .d0 (selOf 0 0)
  | .extFix m => .uop .d3f (selOf 0 m)
  | .extVar m => .uop .d3v (selOf 0 m)
  | .valLen m => .uop .e0 (selOf 1 m)
  | .valCirc m => .uop .e1 (selOf 1 m)
  | .validate m => .uop .e01 (selOf 1 m)
  | .encHdr m => .uop .e2 (selOf 1 m)
  | .encVar m => .uop .e3v (selOf 1 m)
  | .encFix m => .uop .e3f (selOf 1 m)

/-! ## Bare table words -/

/-- The stage a bare `SEL` is read at: that of the first row whose `match` value it is, else that of the first row narrower than
a whole operation that holds it. A bare `SEL` does not say its stage, and the table's rows overlap on purpose (R72), so this
order is the model's (log 14). -/
def tableStage (sel : BitVec 9) : Stage :=
  match uopRows.find? (fun r => r.value == sel) with
  | some r => r.op.stage
  | none =>
    match uopRows.find? (fun r => r.mask != 0x100 && r.matches sel) with
    | some r => r.op.stage
    | none => .idle

/-- The selector a bare word of the table stands for, by the width of its format (R72): below 8 bits it is `OP` (1 bit), of 8 bits
the command byte, above that the low nine bits are `SEL` (log 14). -/
def tableSelector (nbits w : Nat) : Selector :=
  if nbits < 8 then .req (BitVec.ofNat 1 w)
  else if nbits = 8 then .cmd (BitVec.ofNat 8 w)
  else .uop (tableStage (BitVec.ofNat 9 w)) (BitVec.ofNat 9 w)

/-- The instruction the decoder reads from a word of opcode_table.json. -/
def decodeTableWord (nbits w : Nat) : Option Instr :=
  (decodeSelector (tableSelector nbits w)).toOption

end Sys2Proof
end

