-- ==== Sys2Proof/Machine/State.lean ====
section
/-! DEFINITION. The result types of the functional core (60_exceptions.md R125), the reasons a step can stop, and the state of one
instance: the interface registers and buffers of 10_state.md R14 to R26, the stage cursor and transients of R27 and R28, and two
counters of the model's own. -/

namespace Sys2Proof.Machine

/-! ## Results of the functional core -/

/-- Which way the circuit-id policy was violated (R130): TCC's `"forbidden"` and `"required"`. -/
inductive Reason where
  | forbidden
  | required
  deriving DecidableEq, Repr

/-- `DecodeError` (R125). -/
inductive DecodeError where
  | incompleteData
  | truncatedBody
  deriving DecidableEq, Repr

/-- `EncodeError` (R125). -/
inductive EncodeError where
  | bodyTooLong
  | circuitIdPolicyViolation (r : Reason)
  deriving DecidableEq, Repr

/-- The four error kinds (R125), as one type for the error response (R136). -/
inductive ErrorKind where
  | incompleteData
  | truncatedBody
  | bodyTooLong
  | circuitIdPolicyViolation (r : Reason)
  deriving DecidableEq, Repr

/-- `PolicyClass(m)` (R74). -/
inductive PolicyClass where
  | absent
  | present
  | unconstrained
  deriving DecidableEq, Repr

/-- The result of `PolicyCheck` (R81). -/
inductive PolicyVerdict where
  | pass
  | forbidden
  | required
  deriving DecidableEq, Repr

/-- A cell: "a logical unit with three fields" (R10), the triple DECODE returns. -/
structure ChannelCell where
  circ : CircId
  cmd  : Command
  body : Bytes
  deriving DecidableEq, Repr

/-- A response as the sum type 93_implementation_defined.md U1 prefers: an error arm has no payload but its kind. -/
inductive Response where
  /-- a successful DECODE -/
  | cell (c : ChannelCell)
  /-- a successful ENCODE -/
  | frame (W : Bytes)
  /-- an error -/
  | error (k : ErrorKind)
  deriving DecidableEq, Repr

/-- What a host read of the response registers shows (R20 to R24, R30, R32): each register it may read, and none in the place of one
that R30 leaves unspecified for the last transaction, so that "reading it cannot be expressed" (93_implementation_defined.md U1). -/
structure ResponseView where
  /-- `STATUS`, which every response defines -/
  status : BitVec 3
  /-- `REASON` -/
  reason : Option (BitVec 1)
  /-- `RSP_CIRC_ID` -/
  rspCircId : Option (BitVec 32)
  /-- `RSP_CMD` -/
  rspCmd : Option (BitVec 8)
  /-- `OUT_LEN` -/
  outLen : Option Nat
  deriving DecidableEq, Repr

/-! ## Stops -/

/-- Faults. Every one is safe: the model stops where the spec gives nothing to go on with. -/
inductive Fault where
  /-- Raised by ENC.FIX entered with a body of more than 509 bytes, which R104 says never happens, since VAL.LEN comes before it.
  Safe. -/
  | encFixUnvalidated
  /-- Raised by a host read of an OBUF byte that R30 leaves unspecified for the last transaction: "A host that reads one is at fault"
  (U1, D9), and the host has no such move (R152; log 20). Before the first transaction there is no such fault (R32, U2). Safe. -/
  | unspecifiedByte (a : Nat)
  /-- Raised by a host read of OBUF at an address of 2^LEN_W or more, which does not exist (R33, R34). Safe. -/
  | noSuchAddress (a : Nat)
  deriving DecidableEq, Repr

/-- Refusals. -/
inductive Refusal where
  /-- Raised by `exec` for an instruction that has no meaning yet; no arm does. Safe. -/
  | notModelled (mnemonic : String)
  /-- Raised by construction and by `step` when LINK_VERSION is not 4: "construction with another value is refused (the model has no
  meaning for it)" (R7, U8). Safe. -/
  | linkVersion (v : BitVec 8)
  /-- Raised by `step` in a state whose stage cursor contradicts its selector, so that no row of the table runs there; no
  transaction passes through such a state. Safe. -/
  | selector (r : Reject)
  /-- Raised by a host request while a transaction is in progress, which is from presenting a request to its response: "The spec gives
  no meaning to a request presented while a transaction runs" (R146, R47, U6, U7). Also by a host read then: the response registers and OBUF become valid at the end of the
  transaction (R48), and until then the block alone accesses the buffers (R46; log 16). Safe. -/
  | transactionInProgress
  /-- Raised by a host request with more bytes than IN_LEN can count: it "cannot be presented at the ports" (U10). Safe. -/
  | tooLongForLenW (n : Nat)
  deriving DecidableEq, Repr

/-! ## State -/

/-- A buffer: the bytes that hold a value, by address (R33, R34). An unlisted address holds no value; what is then read is a free
value (log 5, 6). -/
abbrev Mem := List Host.Cell

/-- The canonical form: addresses strictly rise. An unlisted address holds no value, so no entry can equal it. -/
abbrev Mem.wf (m : Mem) : Prop := m.Pairwise (fun x y => x.1 < y.1)

/-- One instance. -/
structure State where
  /-- `OP` (R15) -/
  op : BitVec 1
  /-- `REQ_CIRC_ID` (R16) -/
  reqCircId : BitVec 32
  /-- `REQ_CMD` (R17) -/
  reqCmd : BitVec 8
  /-- `IN_LEN` (R19), below 2^LEN_W (log 3) -/
  inLen : Nat
  /-- `IBUF` (R18, R33): what the host has written -/
  ibuf : Mem
  /-- `STATUS` (R20) -/
  status : BitVec 3
  /-- `REASON` (R21) -/
  reason : BitVec 1
  /-- `RSP_CIRC_ID` (R22) -/
  rspCircId : BitVec 32
  /-- `RSP_CMD` (R23) -/
  rspCmd : BitVec 8
  /-- `OUT_LEN` (R24), below 2^LEN_W (log 3) -/
  outLen : Nat
  /-- `OBUF` (R25, R34): the bytes a rule defines -/
  obuf : Mem
  /-- `LINK_VERSION` (R26); no host move reads it (log 23) -/
  linkVersion : BitVec 8
  /-- the model's own: a request has been presented and not been answered, the span in which the host must not touch it (R47, R146);
  no transaction is in progress after reset (R147, log 21) -/
  pending : Bool
  /-- the stage cursor (R28, R31) -/
  stage : Stage
  /-- the transient `circ` (R27), 0 while idle -/
  circ : BitVec 32
  /-- the transient `cmd` (R27), 0 while idle -/
  cmd : BitVec 8
  /-- the model's own: the operation the last response since reset answered, none before the first; says which response registers
  R30 defines (log 20) -/
  lastOp : Option (BitVec 1)
  /-- the model's own: responses given so far; indexes the free values (log 8) -/
  draws : Nat
  /-- the model's own: resets applied so far; indexes the free bytes of IBUF (log 8) -/
  resets : Nat
  deriving DecidableEq, Repr

/-- After reset (R31, R147): idle, LINK_VERSION 4. Every other register is unspecified there and holds the value log 4 names;
the buffers list nothing. DESIGN CHOICE: every instance begins with the same counters, so two instances, or one instance in two runs,
show the same free values at equal counters, which no rule says (R30, R31, R145; log 19). -/
def State.reset : State where
  op := 0
  reqCircId := 0
  reqCmd := 0
  inLen := 0
  ibuf := []
  status := 0
  reason := 0
  rspCircId := 0
  rspCmd := 0
  outLen := 0
  obuf := []
  linkVersion := Config.linkVersion
  pending := false
  stage := .idle
  circ := 0
  cmd := 0
  lastOp := none
  draws := 0
  resets := 0

end Sys2Proof.Machine
end

