-- ==== Sys2Proof/Machine/Flags.lean ====
section
/-! DEFINITION. The status outputs: the codes of STATUS and REASON (60_exceptions.md R126). No micro-operation writes a flag of its
own ("Flags written: none" in every rule); these are the only status bits there are. -/

namespace Sys2Proof.Machine

/-- A decode error as one of the four kinds (R125). -/
def DecodeError.kind : DecodeError → ErrorKind
  | .incompleteData => .incompleteData
  | .truncatedBody => .truncatedBody

/-- An encode error as one of the four kinds (R125). -/
def EncodeError.kind : EncodeError → ErrorKind
  | .bodyTooLong => .bodyTooLong
  | .circuitIdPolicyViolation r => .circuitIdPolicyViolation r

/-- The `STATUS` code of an error kind (R126); 0 is success. -/
def statusCode : ErrorKind → BitVec 3
  | .incompleteData => 1
  | .truncatedBody => 2
  | .bodyTooLong => 3
  | .circuitIdPolicyViolation _ => 4

/-- The `REASON` code (R126). -/
def reasonCode : Reason → BitVec 1
  | .forbidden => 0
  | .required => 1

/-- `REASON` after an error: defined for a policy violation only, otherwise the given free bit (R21, R126). -/
def reasonBit (free : BitVec 1) : ErrorKind → BitVec 1
  | .circuitIdPolicyViolation r => reasonCode r
  | _ => free

/-- The error kind a `STATUS` and `REASON` pair names, if any (R126): codes 0 and 5 to 7 name none. -/
def errorOfCodes (status : BitVec 3) (reason : BitVec 1) : Option ErrorKind :=
  if status = 1#3 then some .incompleteData
  else if status = 2#3 then some .truncatedBody
  else if status = 3#3 then some .bodyTooLong
  else if status = 4#3 then some (.circuitIdPolicyViolation (if reason = 0#1 then .forbidden else .required))
  else none

end Sys2Proof.Machine
end

