-- ==== Sys2Proof/Machine/Operands.lean ====
section
/-! DEFINITION. Operand forms: the notation of 00_scope.md R9 over byte sequences (slices, big-endian numbers) and the fields of a
frame (30_encoding.md R53 to R56, R110). Byte order is decided here, once (20_memory.md R36, R37). -/

namespace Sys2Proof.Machine

/-- `W[a, b)`, TCC's half-open slice (R9); the spec uses it only where `a <= b <= len(W)`. -/
def slice (W : Bytes) (a b : Nat) : Bytes := (W.drop a).take (b - a)

/-- The number a byte sequence is, big-endian: `be16` of two bytes and `be32` of four (R9, R36). -/
def beNat (X : Bytes) : Nat := X.foldl (fun n b => n * 256 + b.toNat) 0

/-- A number as `k` bytes, big-endian: `to_be16` for `k = 2`, `to_be32` for `k = 4` (R9, R36). -/
def toBe : Nat → Nat → Bytes
  | 0, _ => []
  | k + 1, n => BitVec.ofNat 8 (n / 256 ^ k) :: toBe k n

/-- `be16`, a number in 0 to 65535 (R9). -/
def be16 (X : Bytes) : Nat := beNat X

/-- `be32`, as the 32-bit value of a circuit id (R9, R56). -/
def be32 (X : Bytes) : CircId := BitVec.ofNat 32 (beNat X)

/-- `to_be16` (R9), applied only to lengths of at most 65535 (R121). -/
def toBe16 (n : Nat) : Bytes := toBe Config.varPrefixLen n

/-- `to_be32` (R9). -/
def toBe32 (c : CircId) : Bytes := toBe Config.circIdLen c.toNat

/-- The `CircID` field, bytes `[0,4)` of both formats (R53, R54, R56). -/
def circField (W : Bytes) : CircId := be32 (slice W 0 Config.circIdLen)

/-- The `Length` field of format V, bytes `[5,7)` (R54, R56). -/
def lengthField (W : Bytes) : Nat := be16 (slice W Config.hdrLen Config.varHdrLen)

/-- The `Payload` of format F, bytes `[5,514)` (R53, R56). -/
def rawPayload (W : Bytes) : Bytes := slice W Config.hdrLen Config.fixedCellLen

/-- The `Payload` of format V, `n` bytes from byte 7 (R54, R56). -/
def varPayload (W : Bytes) (n : Nat) : Bytes := slice W Config.varHdrLen (Config.varHdrLen + n)

end Sys2Proof.Machine
end

