-- ==== Sys2Proof/Machine/Ops.lean ====
section
/-! DEFINITION. The named operations over the buffers and registers: reading and writing a buffer (20_memory.md R33, R34), the
input byte sequence of a request (R33, R43), the response (45_operations.md R123, R124; 10_state.md R30), and the one error
response every error goes through (60_exceptions.md R136; there is no return from it, R138). -/

namespace Sys2Proof.Machine

/-! ## Buffers -/

/-- The value an address holds, if it holds one. -/
def Mem.read (m : Mem) (a : Nat) : Option Byte := m.lookup a

/-- Consecutive bytes from an address on, as entries. -/
def Mem.cellsAt : Nat → Bytes → Mem
  | _, [] => []
  | a, b :: bs => (a, b) :: Mem.cellsAt (a + 1) bs

/-- The entries below an address. -/
def Mem.below (m : Mem) (a : Nat) : Mem := m.filter (fun x => decide (x.1 < a))

/-- The entries at and above an address. -/
def Mem.atOrAbove (m : Mem) (a : Nat) : Mem := m.filter (fun x => decide (a ≤ x.1))

/-- `MemWrite(a, n, v)` (R9, R34): the bytes `v` at `a` and up; every other address keeps what it held. -/
def Mem.writeBytes (m : Mem) (a : Nat) (v : Bytes) : Mem :=
  m.below a ++ (Mem.cellsAt a v ++ m.atOrAbove (a + v.length))

/-! ## Reading the request -/

/-- What the block reads at an `IBUF` address: what the host last wrote there (R46), or, if nothing since reset, a free value
(R31, log 5), the same one in any two states with equal `resets` (DESIGN CHOICE, log 19). -/
def State.ibufByte (s : State) (a : Nat) : Byte := (s.ibuf.read a).getD (Config.freeIbuf s.resets a)

/-- The input byte sequence `IBUF[0, IN_LEN)` (R33). Nothing at or above `IN_LEN` is read (R43). -/
def State.input (s : State) : Bytes := (List.range s.inLen).map s.ibufByte

/-! ## Reading the response -/

/-- What an `OBUF` address shows: the byte a rule defines, or a free value (R25, log 6), the same one in any two
states with equal `draws` (DESIGN CHOICE, log 19). -/
def State.obufByte (s : State) (a : Nat) : Byte := (s.obuf.read a).getD (Config.freeObuf s.draws a)

/-- The output byte sequence `OBUF[0, OUT_LEN)` (R34). -/
def State.output (s : State) : Bytes := (List.range s.outLen).map s.obufByte

/-- The response the registers hold (R123, R124, R126), with nothing in it that R30 leaves unspecified: none before the first response
since reset (R31), and none for the codes the block never writes. Which operation it answers is `lastOp`, since `OP` may already be
that of the next request. -/
def State.response (s : State) : Option Response :=
  match s.lastOp with
  | none => none
  | some op =>
    if s.status = 0#3 then
      some (if op = 0#1 then .cell ⟨s.rspCircId, s.rspCmd, s.output⟩ else .frame s.output)
    else
      (errorOfCodes s.status s.reason).map .error

/-! ## The transaction in progress -/

/-- A transaction is in progress: from presenting its request to its response (R47, R146, U6; log 21), taken whole or stage by stage
(log 1). Otherwise the instance is idle, "ready to accept a request" (R147). -/
abbrev State.inProgress (s : State) : Prop := s.pending = true ∨ s.stage ≠ .idle

/-! ## Answering -/

/-- The common part of every response: `STATUS` is written; every other response register and all of `OBUF` become unspecified
(R30) until the rest of the response writes them; the transaction is over, its transients gone (R27, R138). Unspecified means a free
value indexed by `draws`: the same one in any two states, of one instance or of two, with equal `draws` (DESIGN CHOICE, log 19). -/
def State.respond (s : State) (status : BitVec 3) : State :=
  { s with
    status := status
    reason := Config.freeReason s.draws
    rspCircId := Config.freeRspCircId s.draws
    rspCmd := Config.freeRspCmd s.draws
    outLen := Config.freeOutLen s.draws % 2 ^ Config.lenW
    obuf := []
    pending := false
    stage := .idle
    circ := 0
    cmd := 0
    lastOp := some s.op
    draws := s.draws + 1 }

/-- The error response ("trap entry", R136): `STATUS`, and `REASON` for a policy violation, and nothing else. -/
def State.raise (s : State) (k : ErrorKind) : State :=
  { s.respond (statusCode k) with reason := reasonBit (Config.freeReason s.draws) k }

/-- The response of a successful DECODE (R123). -/
def State.answerCell (s : State) (c : ChannelCell) : State :=
  { s.respond 0 with
    rspCircId := c.circ
    rspCmd := c.cmd
    outLen := c.body.length
    obuf := Mem.cellsAt 0 c.body }

/-- The response of a successful ENCODE (R124). -/
def State.answerFrame (s : State) (W : Bytes) : State :=
  { s.respond 0 with
    outLen := W.length
    obuf := Mem.cellsAt 0 W }

/-- The response of a successful ENCODE whose header is in `OBUF[0, 5)` already: the rest of the frame goes behind it (R39), and
nothing at or above `OUT_LEN` stays defined (R25). -/
def State.answerFrameTail (s : State) (T : Bytes) : State :=
  { s.respond 0 with
    outLen := Config.hdrLen + T.length
    obuf := (s.obuf.writeBytes Config.hdrLen T).below (Config.hdrLen + T.length) }

end Sys2Proof.Machine
end

