-- ==== Sys2Proof/Machine/BodyExtractor.lean ====
section
/-! DEFINITION. The Body Extractor (42_body_extractor.md): Strip, EXT.FIX, EXT.VAR. -/

namespace Sys2Proof.Machine

/-- `Strip(P)` (R88): `P` without its trailing run of zero bytes. A byte is dropped when it is zero and nothing is left of what
follows it. -/
def strip : Bytes → Bytes
  | [] => []
  | b :: P =>
    match strip P with
    | [] => if b = 0#8 then [] else [b]
    | q :: Q => b :: q :: Q

/-- `ExtFix(W)` (R90): at least 514 bytes, then the payload with its trailing zeros stripped, always (R91). -/
def extFix (W : Bytes) : Except DecodeError Bytes :=
  if W.length < Config.fixedCellLen then .error .incompleteData
  else .ok (strip (rawPayload W))

/-- `ExtVar(W)` (R92): at least 7 bytes, then at least as many as Length declares, then those bytes unstripped. -/
def extVar (W : Bytes) : Except DecodeError Bytes :=
  if W.length < Config.varHdrLen then .error .incompleteData
  else if W.length < Config.varHdrLen + lengthField W then .error .truncatedBody
  else .ok (varPayload W (lengthField W))

/-- EXT.FIX as a stage of a transaction (R90; R28 stages D3F and D4): the body goes to OBUF and the response is given, with the
circuit id HDR.PARSE read and the governing command. -/
def execExtFix (m : Command) (s : State) : Host.Outcome State Fault Refusal :=
  match extFix s.input with
  | .error e => .next (s.raise e.kind)
  | .ok body => .next (s.answerCell ⟨s.circ, m, body⟩)

/-- EXT.VAR as a stage of a transaction (R92; R28 stages D3V and D4). -/
def execExtVar (m : Command) (s : State) : Host.Outcome State Fault Refusal :=
  match extVar s.input with
  | .error e => .next (s.raise e.kind)
  | .ok body => .next (s.answerCell ⟨s.circ, m, body⟩)

end Sys2Proof.Machine
end

