-- ==== Sys2Proof/Machine/Classify.lean ====
section
/-! DEFINITION. Command classification and circuit-id policy (40_classify_policy.md R73, R74, R81) and the frame length they fix
(45_operations.md R110). -/

namespace Sys2Proof.Machine

/-- `IsVar(m)`, "the single source of truth used by every other rule" (R73). -/
def isVar (m : Command) : Bool := m == 7#8 || decide (128 ≤ m.toNat)

/-- `PolicyClass(m)` (R74). Commands 129 to 255 have no rule, on purpose (R62). -/
def policyClass (m : Command) : PolicyClass :=
  if m = 0#8 ∨ m = 7#8 ∨ m = 128#8 then .absent
  else if m.toNat ≤ 127 then .present
  else .unconstrained

/-- The policy of a class applied to a circuit id (R81): only whether it is zero matters. -/
def policyVerdict (p : PolicyClass) (c : CircId) : PolicyVerdict :=
  match p with
  | .absent => if c = 0#32 then .pass else .forbidden
  | .present => if c = 0#32 then .required else .pass
  | .unconstrained => .pass

/-- `PolicyCheck(c, m)` (R81). -/
def policyCheck (c : CircId) (m : Command) : PolicyVerdict := policyVerdict (policyClass m) c

/-- `FrameLen(m, n)` (R110), which requires `n <= 65535` of a variable-length command and `n <= 509` of a fixed-length one.
DESIGN CHOICE: beyond these bounds, where R110 gives no value, it is `7 + n` and 514 all the same; no instruction computes it (log
24). -/
def frameLen (m : Command) (n : Nat) : Nat :=
  if isVar m then Config.varHdrLen + n else Config.fixedCellLen

end Sys2Proof.Machine
end

