-- ==== Sys2Proof/Machine/FrameEncoder.lean ====
section
/-! DEFINITION. The Frame Encoder (44_frame_encoder.md): ENC.HDR, ENC.VAR, ENC.FIX. -/

namespace Sys2Proof.Machine

/-- `EncHdr(circ, cmd)` (R100): the circuit id as supplied, never a substituted zero (R101). -/
def encHdr (c : CircId) (m : Command) : Bytes := toBe32 c ++ [m]

/-- `EncVar(body)` (R102): Length and the body, or `BodyTooLong` above 65535 bytes. -/
def encVar (body : Bytes) : Except EncodeError Bytes :=
  if Config.maxVarBody < body.length then .error .bodyTooLong
  else .ok (toBe16 body.length ++ body)

/-- `EncFix(body)` (R104): the body and zero padding up to 509 bytes; its precondition is `len(body) <= 509`. -/
def encFix (body : Bytes) : Bytes := body ++ zeros (Config.cellDataLen - body.length)

/-- ENC.HDR as a stage of a transaction (R100; R28 stage E2): the header goes to `OBUF[0, 5)` and the framing of the command says
which payload follows. -/
def execEncHdr (m : Command) (s : State) : Host.Outcome State Fault Refusal :=
  .next { s with
    obuf := s.obuf.writeBytes 0 (encHdr s.reqCircId m)
    stage := if isVar m then .e3v else .e3f }

/-- ENC.VAR as a stage of a transaction (R102; R28 stages E3V and E4). The governing command selected it and is in the header
already. -/
def execEncVar (_m : Command) (s : State) : Host.Outcome State Fault Refusal :=
  match encVar s.input with
  | .error e => .next (s.raise e.kind)
  | .ok T => .next (s.answerFrameTail T)

/-- ENC.FIX as a stage of a transaction (R104; R28 stages E3F and E4). "EncFix is never entered with n > 509": there the spec gives
no effect, and the model faults (log 13). -/
def execEncFix (_m : Command) (s : State) : Host.Outcome State Fault Refusal :=
  if Config.cellDataLen < s.inLen then .fault .encFixUnvalidated
  else .next (s.answerFrameTail (encFix s.input))

end Sys2Proof.Machine
end

