-- ==== Sys2Proof/Machine/HeaderParser.lean ====
section
/-! DEFINITION. The Header Parser (41_header_parser.md): HDR.PARSE. -/

namespace Sys2Proof.Machine

/-- `HdrParse(W)` (R85). It does not classify and does not apply the policy (R86). -/
def hdrParse (W : Bytes) : Except DecodeError (CircId × Command) :=
  if h : W.length < Config.hdrLen then .error .incompleteData
  else .ok (circField W, W[Config.circIdLen]'(by simp only [Config.hdrLen, Config.circIdLen] at *; omega))

/-- HDR.PARSE as a stage of a transaction (R85; R28 stages D0 to D2): the pair goes to the transients `circ` and `cmd`, and the
classification of `cmd` says which extraction follows (R94). -/
def execHdrParse (s : State) : Host.Outcome State Fault Refusal :=
  match hdrParse s.input with
  | .error e => .next (s.raise e.kind)
  | .ok (c, m) => .next { s with circ := c, cmd := m, stage := if isVar m then .d3v else .d3f }

end Sys2Proof.Machine
end

