-- ==== Sys2Proof/Machine/CommandClasses.lean ====
section
/-! DEFINITION. The six command classes (40_classify_policy.md R75 to R80) as instructions: the transaction that OP selects, for a
command of the class, written from the class's rule, with the framing and policy of its row as constants and not through IsVar or
PolicyClass. That this is what DECODE and ENCODE do for such a command is a statement, not the definition. -/

namespace Sys2Proof.Machine

/-- DECODE of a frame whose command is `m`, fixed-length (R75, R76, R78): 514 bytes required, `Strip(W[5, 514))`, the circuit id as
read. -/
def classDecodeFixed (m : Command) (W : Bytes) : Except DecodeError ChannelCell :=
  match extFix W with
  | .error e => .error e
  | .ok body => .ok ⟨circField W, m, body⟩

/-- DECODE of a frame whose command is `m`, variable-length (R77, R79, R80): 7 bytes required, then `7 + length`, no stripping. -/
def classDecodeVar (m : Command) (W : Bytes) : Except DecodeError ChannelCell :=
  match extVar W with
  | .error e => .error e
  | .ok body => .ok ⟨circField W, m, body⟩

/-- ENCODE with a fixed-length command `m` of policy `p` (R75, R76, R78): the length check, then the policy, then 514 bytes. -/
def classEncodeFixed (p : PolicyClass) (c : CircId) (m : Command) (body : Bytes) : Except EncodeError Bytes :=
  if 509 < body.length then .error .bodyTooLong
  else
    match policyVerdict p c with
    | .forbidden => .error (.circuitIdPolicyViolation .forbidden)
    | .required => .error (.circuitIdPolicyViolation .required)
    | .pass => .ok (toBe32 c ++ [m] ++ body ++ zeros (509 - body.length))

/-- ENCODE with a variable-length command `m` of policy `p` (R77, R79, R80): the policy, then the 65535 check, then
`7 + len(body)` bytes. -/
def classEncodeVar (p : PolicyClass) (c : CircId) (m : Command) (body : Bytes) : Except EncodeError Bytes :=
  match policyVerdict p c with
  | .forbidden => .error (.circuitIdPolicyViolation .forbidden)
  | .required => .error (.circuitIdPolicyViolation .required)
  | .pass =>
    if 65535 < body.length then .error .bodyTooLong
    else .ok (toBe32 c ++ [m] ++ toBe16 body.length ++ body)

/-- The transaction OP selects, given what each operation answers. -/
def State.transact (s : State) (d : Except DecodeError ChannelCell) (e : Except EncodeError Bytes) : State :=
  if s.op = 0#1 then
    match d with
    | .error k => s.raise k.kind
    | .ok cell => s.answerCell cell
  else
    match e with
    | .error k => s.raise k.kind
    | .ok W => s.answerFrame W

/-- CMD0: command 0, fixed-length, the circuit id must be absent (R75). -/
def execCmd0 (s : State) : Host.Outcome State Fault Refusal :=
  .next (s.transact (classDecodeFixed 0 s.input) (classEncodeFixed .absent s.reqCircId 0 s.input))

/-- CMD1_6: commands 1 to 6, fixed-length, the circuit id must be present (R76). -/
def execCmd1to6 (m : Command) (s : State) : Host.Outcome State Fault Refusal :=
  .next (s.transact (classDecodeFixed m s.input) (classEncodeFixed .present s.reqCircId m s.input))

/-- CMD7: command 7, variable-length, the circuit id must be absent (R77). -/
def execCmd7 (s : State) : Host.Outcome State Fault Refusal :=
  .next (s.transact (classDecodeVar 7 s.input) (classEncodeVar .absent s.reqCircId 7 s.input))

/-- CMD8_127: commands 8 to 127, as CMD1_6 in every respect (R78). -/
def execCmd8to127 (m : Command) (s : State) : Host.Outcome State Fault Refusal :=
  .next (s.transact (classDecodeFixed m s.input) (classEncodeFixed .present s.reqCircId m s.input))

/-- CMD128: command 128, as CMD7 with 128 in place of 7 (R79). -/
def execCmd128 (s : State) : Host.Outcome State Fault Refusal :=
  .next (s.transact (classDecodeVar 128 s.input) (classEncodeVar .absent s.reqCircId 128 s.input))

/-- CMD129_255: commands 129 to 255, variable-length, no circuit-id check at all (R80, R62). -/
def execCmd129to255 (m : Command) (s : State) : Host.Outcome State Fault Refusal :=
  .next (s.transact (classDecodeVar m s.input) (classEncodeVar .unconstrained s.reqCircId m s.input))

end Sys2Proof.Machine
end

