-- ==== Sys2Proof/Machine/PolicyValidator.lean ====
section
/-! DEFINITION. The Policy Validator (43_policy_validator.md): VAL.LEN, VAL.CIRC, VALIDATE. -/

namespace Sys2Proof.Machine

/-- `ValLen(cmd, n)` (R95): the length as supplied, not as stripped (R162); the 65535 bound is not checked here (R98). -/
def valLen (m : Command) (n : Nat) : Except EncodeError Unit :=
  if isVar m = false ∧ Config.cellDataLen < n then .error .bodyTooLong else .ok ()

/-- `ValCirc(circ, cmd)` (R96). -/
def valCirc (c : CircId) (m : Command) : Except EncodeError Unit :=
  match policyCheck c m with
  | .forbidden => .error (.circuitIdPolicyViolation .forbidden)
  | .required => .error (.circuitIdPolicyViolation .required)
  | .pass => .ok ()

/-- `Validate(circ, cmd, n)` (R97): VAL.LEN, and only if it passes VAL.CIRC. -/
def validate (c : CircId) (m : Command) (n : Nat) : Except EncodeError Unit :=
  match valLen m n with
  | .error e => .error e
  | .ok () => valCirc c m

/-- VAL.LEN as a stage of a transaction (R95; R28 stage E0). -/
def execValLen (m : Command) (s : State) : Host.Outcome State Fault Refusal :=
  match valLen m s.inLen with
  | .error e => .next (s.raise e.kind)
  | .ok () => .next { s with stage := .e1 }

/-- VAL.CIRC as a stage of a transaction (R96; R28 stage E1). -/
def execValCirc (m : Command) (s : State) : Host.Outcome State Fault Refusal :=
  match valCirc s.reqCircId m with
  | .error e => .next (s.raise e.kind)
  | .ok () => .next { s with stage := .e2 }

/-- VALIDATE, the composite of both stages (R97, R72). -/
def execValidate (m : Command) (s : State) : Host.Outcome State Fault Refusal :=
  match validate s.reqCircId m s.inLen with
  | .error e => .next (s.raise e.kind)
  | .ok () => .next { s with stage := .e2 }

end Sys2Proof.Machine
end

