-- ==== Sys2Proof/Machine/Operations.lean ====
section
/-! DEFINITION. The two operations (45_operations.md): `decode` and `encode` of the functional core (R107, R108), the pseudo-operation
ROUNDTRIP (30_encoding.md R71), and DECODE and ENCODE at the ports (R123, R124). -/

namespace Sys2Proof.Machine

/-- `decode(W)` (R107). The circuit id and command are returned as read; the policy is not applied (R84). -/
def decodeCell (W : Bytes) : Except DecodeError ChannelCell :=
  match hdrParse W with
  | .error e => .error e
  | .ok (c, m) =>
    match (if isVar m then extVar W else extFix W) with
    | .error e => .error e
    | .ok body => .ok ⟨c, m, body⟩

/-- `encode(circ, cmd, body)` (R108), its checks in the order of R109. -/
def encodeCell (c : CircId) (m : Command) (body : Bytes) : Except EncodeError Bytes :=
  match validate c m body.length with
  | .error e => .error e
  | .ok () =>
    if isVar m then
      match encVar body with
      | .error e => .error e
      | .ok T => .ok (encHdr c m ++ T)
    else .ok (encHdr c m ++ encFix body)

/-- `ROUNDTRIP <circ>, <cmd>, <bytes>` (R71): the DECODE response of what ENCODE answered, or the ENCODE error. -/
def roundtrip (c : CircId) (m : Command) (body : Bytes) : Response :=
  match encodeCell c m body with
  | .error e => .error e.kind
  | .ok W =>
    match decodeCell W with
    | .error e => .error e.kind
    | .ok cell => .cell cell

/-- DECODE at the ports (R123): one transaction. -/
def execDecode (s : State) : Host.Outcome State Fault Refusal :=
  match decodeCell s.input with
  | .error e => .next (s.raise e.kind)
  | .ok cell => .next (s.answerCell cell)

/-- ENCODE at the ports (R124): one transaction. -/
def execEncode (s : State) : Host.Outcome State Fault Refusal :=
  match encodeCell s.reqCircId s.reqCmd s.input with
  | .error e => .next (s.raise e.kind)
  | .ok W => .next (s.answerFrame W)

end Sys2Proof.Machine
end

