-- ==== Sys2Proof/Machine/Dispatch.lean ====
section
/-! DEFINITION. exec: one arm per constructor of Instr, each a direct call of its meaning. -/

namespace Sys2Proof.Machine

def exec (i : Instr) (s : State) : Host.Outcome State Fault Refusal :=
  match i with
  -- 45_operations.md: the two operations
  | .decode => Sys2Proof.Machine.execDecode s
  | .encode => Sys2Proof.Machine.execEncode s
  -- 40_classify_policy.md: the command classes
  | .cmd0 => Sys2Proof.Machine.execCmd0 s
  | .cmd1to6 m => Sys2Proof.Machine.execCmd1to6 m s
  | .cmd7 => Sys2Proof.Machine.execCmd7 s
  | .cmd8to127 m => Sys2Proof.Machine.execCmd8to127 m s
  | .cmd128 => Sys2Proof.Machine.execCmd128 s
  | .cmd129to255 m => Sys2Proof.Machine.execCmd129to255 m s
  -- 41 to 44: the micro-operations
  | .hdrParse => Sys2Proof.Machine.execHdrParse s
  | .extFix m => Sys2Proof.Machine.execExtFix m s
  | .extVar m => Sys2Proof.Machine.execExtVar m s
  | .valLen m => Sys2Proof.Machine.execValLen m s
  | .valCirc m => Sys2Proof.Machine.execValCirc m s
  | .validate m => Sys2Proof.Machine.execValidate m s
  | .encHdr m => Sys2Proof.Machine.execEncHdr m s
  | .encVar m => Sys2Proof.Machine.execEncVar m s
  | .encFix m => Sys2Proof.Machine.execEncFix m s

end Sys2Proof.Machine
end

