-- ==== Sys2Proof/Machine/Fetch.lean ====
section
/-! DEFINITION. What a step runs: the selector of the instance's present condition (30_encoding.md R68; 10_state.md R28), its
decoding, and the placing of an instruction so that the next step runs it. Nothing is fetched from memory (20_memory.md R51). -/

namespace Sys2Proof.Machine

/-- Byte 4 of a DECODE's input, "defined only when `IN_LEN >= 5`" (R68). Below that it is a free value (log 22); HDR.PARSE's row takes
any SEL[7:0], so no step depends on it. -/
def State.selCommandByte (s : State) : Command :=
  if Config.hdrLen ≤ s.inLen then s.ibufByte Config.circIdLen else Config.freeSelCmd s.draws

/-- The command that governs the transaction in progress, SEL[7:0] (R68): `IBUF[4]` for a DECODE, `REQ_CMD` for an ENCODE. Behind D0 it is
the transient `cmd`, which is `IBUF[4]` as HDR.PARSE read it (R27, R51). -/
def State.governing (s : State) : Command :=
  if s.op = 0#1 then (if s.stage = .d0 then s.selCommandByte else s.cmd) else s.reqCmd

/-- What selects the next instruction: for a transaction taken whole `OP` (R15), for one taken stage by stage the stage and `SEL` (R28,
R68). -/
def State.selector (s : State) : Selector :=
  if s.stage = .idle then .req s.op else .uop s.stage (selOf s.op s.governing)

/-- The class instruction of the request presented: by byte 4 of the input for DECODE, by `REQ_CMD` for ENCODE (R51, R72). -/
def State.requestClass (s : State) : Except Reject Instr :=
  if s.op = 0#1 then decodeFrameCommand s.input else decodeCommand s.reqCmd

/-- The instruction the next step runs. None while the instance is idle with no request presented: "all activity of the block is a
sequence of transactions" (R13), and nothing happens between them (R142). An instance whose LINK_VERSION is not 4 has no meaning (R7,
log 9). -/
def State.fetch (s : State) : Except Refusal (Option Instr) :=
  if s.linkVersion = Config.linkVersion then
    if s.inProgress then
      match decodeSelector s.selector with
      | .ok i => .ok (some i)
      | .error r => .error (.selector r)
    else .ok none
  else .error (.linkVersion s.linkVersion)

/-- A command byte where a DECODE finds it: byte 4 of an input of at least 5 bytes (R68). -/
def State.placeCommandByte (s : State) (m : Command) : State :=
  { s with ibuf := s.ibuf.writeBytes Config.circIdLen [m], inLen := max s.inLen Config.hdrLen }

/-- The state in which the next step runs what a selector selects: a request is presented (log 15). A REQ selector is put into `OP`. A
command selector is put where both operations find it: `REQ_CMD`, and byte 4 of the input. A `SEL` is put into `OP` and the governing
command, with the stage cursor at its stage. -/
def State.place (s : State) : Selector → State
  | .req op => { s with op := op, pending := true, stage := .idle }
  | .cmd m => { s.placeCommandByte m with reqCmd := m, pending := true, stage := .idle }
  | .uop stage sel =>
    if selOp sel = 0#1 then { s.placeCommandByte (selCmd sel) with op := 0, cmd := selCmd sel, pending := true, stage := stage }
    else { s with op := 1, reqCmd := selCmd sel, pending := true, stage := stage }

end Sys2Proof.Machine
end

