-- ==== Sys2Proof/Machine/Step.lean ====
section
/-! DEFINITION. One step: for a request presented a whole transaction (10_state.md R13: "A transaction is atomic for a model: it is one step"),
and inside a transaction taken stage by stage the micro-operation of the stage (log 1). -/

namespace Sys2Proof.Machine

/-- One step of an instance. An idle one with no request presented waits: it stays as it is (R13, R142, R147; log 21). -/
def step (s : State) : Host.Outcome State Fault Refusal :=
  match s.fetch with
  | .error r => .refused r
  | .ok none => .next s
  | .ok (some i) => exec i s

/-- `s` with the instruction of a table word placed where the next step runs it (log 14, 15). -/
def State.withFetchWord (s : State) (nbits w : Nat) : State := s.place (tableSelector nbits w)

end Sys2Proof.Machine
end

