-- ==== Sys2Proof/Machine/Instances.lean ====
section
/-! DEFINITION. Several instances (60_exceptions.md R145, R146): each is a state of its own, a step is a step of one of them, and
they share nothing. -/

namespace Sys2Proof.Machine

/-- A step of the instance numbered `k`; the others stay as they are. A number no instance has leaves all as they are. -/
def stepInstance (k : Nat) (xs : List State) : Host.Outcome (List State) Fault Refusal :=
  match xs[k]? with
  | none => .next xs
  | some s =>
    match step s with
    | .next t => .next (xs.set k t)
    | .fault r => .fault r
    | .refused r => .refused r

/-- One step of instance `j`, then one of instance `k`. -/
def stepTwo (j k : Nat) (xs : List State) : Host.Outcome (List State) Fault Refusal :=
  match stepInstance j xs with
  | .next ys => stepInstance k ys
  | .fault r => .fault r
  | .refused r => .refused r

end Sys2Proof.Machine
end

