-- ==== Sys2Proof/Machine/HostPort.lean ====
section
/-! DEFINITION. The host's moves (70_reset_and_hazards.md R147 to R153): constructing an instance, presenting a request, reading the
response registers and OBUF, reset, and the round trip of 30_encoding.md R71 run at the ports. They are operations between steps, never steps (20_memory.md R46,
R47), and the ones the spec gives no meaning to are refused (log 16). -/

namespace Sys2Proof.Machine

/-- Construction (R7, R149): LINK_VERSION 4 gives an instance in the reset condition; any other value is refused.
DESIGN CHOICE: two instances so constructed are equal states, free values included (R30, R31, R145; log 19). -/
def State.construct (version : BitVec 8) : Host.Outcome State Fault Refusal :=
  if version = Config.linkVersion then .next State.reset else .refused (.linkVersion version)

/-- Reset at any time (R31, R147): the reset condition, the transaction in progress abandoned. The model's counters go on, so that
free values after it are fresh. -/
def State.applyReset (s : State) : State :=
  { State.reset with draws := s.draws + 1, resets := s.resets + 1 }

/-- Putting an input byte sequence in place: `IBUF[0, n)` and `IN_LEN` (R33, R150); bytes above stay as they were. -/
def State.loadInput (s : State) (W : Bytes) : State :=
  { s with ibuf := s.ibuf.writeBytes 0 W, inLen := W.length }

/-- Whether a host request of `n` input bytes can be presented now (R146, U10). While a transaction is in progress, which begins when its
request is presented, the host has no such move (R47, R152, U6, U7), and only reset ends it without a response (R142; log 21). -/
def State.admits (s : State) (n : Nat) : Except Refusal Unit :=
  if s.inProgress then .error .transactionInProgress
  else if n < 2 ^ Config.lenW then .ok ()
  else .error (.tooLongForLenW n)

/-- The request `DECODE <bytes>` (R70, R123, R150). `REQ_CIRC_ID` and `REQ_CMD` need not be written. -/
def State.presentDecode (s : State) (W : Bytes) : Host.Outcome State Fault Refusal :=
  match s.admits W.length with
  | .error r => .refused r
  | .ok () => .next { s.loadInput W with op := 0, pending := true }

/-- The request `ENCODE <circ>, <cmd>, <bytes>` (R70, R124, R150). -/
def State.presentEncode (s : State) (c : CircId) (m : Command) (body : Bytes) : Host.Outcome State Fault Refusal :=
  match s.admits body.length with
  | .error r => .refused r
  | .ok () => .next { s.loadInput body with op := 1, reqCircId := c, reqCmd := m, pending := true }

/-- What a host may read: something only between transactions, since the response registers and OBUF become valid together at the end
of one (R48) and the host accesses the buffers between them (R46, R13; log 16). -/
def State.hostRead {α : Type} (s : State) (v : Host.Outcome α Fault Refusal) : Host.Outcome α Fault Refusal :=
  if s.inProgress then .refused .transactionInProgress else v

/-- The host reads the response (R123, R124) as the sum type U1 prefers; none before the first one since reset, when "no response
exists" (R31). -/
def State.hostReadResponse (s : State) : Host.Outcome (Option Response) Fault Refusal :=
  s.hostRead (.next s.response)

/-- The response registers as a host may read them. Before the first transaction since reset every one reads as what it holds, a value
no rule constrains (R32, U2; log 4). After a transaction those that R30 defines for its operation and outcome (log 20). -/
def State.responseView (s : State) : ResponseView :=
  match s.lastOp with
  | none => ⟨s.status, some s.reason, some s.rspCircId, some s.rspCmd, some s.outLen⟩
  | some op =>
    { status := s.status
      reason := if s.status = 4#3 then some s.reason else none
      rspCircId := if s.status = 0#3 ∧ op = 0#1 then some s.rspCircId else none
      rspCmd := if s.status = 0#3 ∧ op = 0#1 then some s.rspCmd else none
      outLen := if s.status = 0#3 then some s.outLen else none }

/-- The host reads the response registers (R30, R32).
DESIGN CHOICE: LINK_VERSION is not among them and no other host move reads it. R26 calls it read-only and R14's table says neither
operation uses it, but no rule says who reads it at the ports (log 23). -/
def State.hostReadRegisters (s : State) : Host.Outcome ResponseView Fault Refusal :=
  s.hostRead (.next s.responseView)

/-- A byte of OBUF as the host may read it (R30, R32): before the first transaction since reset whatever the address shows, a value no
rule constrains (U2, log 6); after a transaction a byte that it defined, and any other is one the host must not read (R152, U1, D9;
log 20). -/
def State.obufView (s : State) (a : Nat) : Host.Outcome Byte Fault Refusal :=
  match s.lastOp, s.obuf.read a with
  | none, _ => .next (s.obufByte a)
  | some _, some b => .next b
  | some _, none => .fault (.unspecifiedByte a)

/-- The host reads a byte of OBUF (R34): every address below 2^LEN_W exists, none above. -/
def State.hostReadObuf (s : State) (a : Nat) : Host.Outcome Byte Fault Refusal :=
  if a < 2 ^ Config.lenW then s.hostRead (s.obufView a) else .fault (.noSuchAddress a)

/-- What comes after an outcome, if it is a next state. -/
def andThen (o : Host.Outcome State Fault Refusal) (k : State → Host.Outcome State Fault Refusal) :
    Host.Outcome State Fault Refusal :=
  match o with
  | .next s => k s
  | .fault r => .fault r
  | .refused r => .refused r

/-- `DECODE <bytes>`: the request, then the transaction. -/
def runDecode (s : State) (W : Bytes) : Host.Outcome State Fault Refusal :=
  andThen (s.presentDecode W) step

/-- `ENCODE <circ>, <cmd>, <bytes>`: the request, then the transaction. -/
def runEncode (s : State) (c : CircId) (m : Command) (body : Bytes) : Host.Outcome State Fault Refusal :=
  andThen (s.presentEncode c m body) step

/-- `ROUNDTRIP` at the ports (R71): ENCODE, and if it answers a frame, DECODE of what OBUF then holds. -/
def runRoundtrip (s : State) (c : CircId) (m : Command) (body : Bytes) : Host.Outcome State Fault Refusal :=
  andThen (runEncode s c m body) (fun t => if t.status = 0#3 then runDecode t t.output else .next t)

end Sys2Proof.Machine
end

