-- ==== Sys2Proof/Machine/Stages.lean ====
section
/-! DEFINITION. A transaction taken stage by stage (10_state.md R28): the cursor put at the first stage of the operation OP selects,
then steps until it is idle again. For a request presented a step is the whole transaction at once; that both give the same state is a
statement. -/

namespace Sys2Proof.Machine

/-- The request presented, to be taken stage by stage: the cursor at `D0` or `E0` (R28). -/
def State.beginStages (s : State) : State := { s with pending := true, stage := if s.op = 0#1 then .d0 else .e0 }

/-- The same with the validator's two stages taken as one, by VALIDATE (R97). -/
def State.beginComposite (s : State) : State := { s with pending := true, stage := if s.op = 0#1 then .d0 else .e01 }

/-- Steps until the cursor is idle, at most `n`. -/
def runStages : Nat → State → Host.Outcome State Fault Refusal
  | 0, s => .next s
  | n + 1, s =>
    match step s with
    | .next t => if t.stage = .idle then .next t else runStages n t
    | .fault r => .fault r
    | .refused r => .refused r

end Sys2Proof.Machine
end

