-- ==== Sys2Proof/Safety.lean ====
section
/-! DEFINITION. What counts as a good state, in the terms the statements use: the invariant every step keeps, and the agreement of
two states on a request. -/

namespace Sys2Proof.Machine

/-- What the stage cursor says of the rest of the state: the checks before a stage have passed (10_state.md R28;
43_policy_validator.md R99), and idle means no transient is left (R27, R29). -/
def State.StageInv (s : State) : Prop :=
  match s.stage with
  | .idle => s.circ = 0#32 ∧ s.cmd = 0#8
  | .d0 => s.op = 0#1
  | .d3f => s.op = 0#1 ∧ hdrParse s.input = .ok (s.circ, s.cmd) ∧ isVar s.cmd = false
  | .d3v => s.op = 0#1 ∧ hdrParse s.input = .ok (s.circ, s.cmd) ∧ isVar s.cmd = true
  | .e0 => s.op = 1#1
  | .e01 => s.op = 1#1
  | .e1 => s.op = 1#1 ∧ valLen s.reqCmd s.inLen = .ok ()
  | .e2 => s.op = 1#1 ∧ validate s.reqCircId s.reqCmd s.inLen = .ok ()
  | .e3f => s.op = 1#1 ∧ validate s.reqCircId s.reqCmd s.inLen = .ok () ∧ isVar s.reqCmd = false
  | .e3v => s.op = 1#1 ∧ validate s.reqCircId s.reqCmd s.inLen = .ok () ∧ isVar s.reqCmd = true

/-- The invariant of an instance. -/
structure State.Inv (s : State) : Prop where
  /-- constructed for version 4, and constant (R26) -/
  version : s.linkVersion = Config.linkVersion
  /-- `IN_LEN` fits its register (R19) -/
  inLen : s.inLen < 2 ^ Config.lenW
  /-- `OUT_LEN` fits its register (R24) -/
  outLen : s.outLen < 2 ^ Config.lenW
  /-- codes 5 to 7 are never written (R20, U4) -/
  status : s.status.toNat ≤ 4
  /-- the buffers are in canonical form, at addresses that exist (R33, R34) -/
  ibufWf : s.ibuf.wf
  obufWf : s.obuf.wf
  ibufAddr : ∀ x ∈ s.ibuf, x.1 < 2 ^ Config.lenW
  obufAddr : ∀ x ∈ s.obuf, x.1 < 2 ^ Config.lenW
  /-- the cursor agrees with the rest (R28) -/
  stage : s.StageInv
  /-- a stage is entered only for a request presented (R13, R28) -/
  pending : s.stage ≠ .idle → s.pending = true

/-- Two states present the same request: the operation, the input bytes below `IN_LEN` and, for an ENCODE, the circuit id and the
command (R30, R43). Nothing else of them need agree. -/
def SameRequest (s t : State) : Prop :=
  s.op = t.op ∧ s.inLen = t.inLen ∧ (∀ a, a < s.inLen → s.ibufByte a = t.ibufByte a) ∧
    (s.op = 1#1 → s.reqCircId = t.reqCircId ∧ s.reqCmd = t.reqCmd)

/-! ## Outcomes of a transaction, as the statements name them -/

/-- Nothing the host wrote or configured has changed: the request registers, IBUF and LINK_VERSION (R18, R26, R136), and with them
the model's count of resets. -/
def SameRequestSide (s t : State) : Prop :=
  t.op = s.op ∧ t.reqCircId = s.reqCircId ∧ t.reqCmd = s.reqCmd ∧ t.inLen = s.inLen ∧ t.ibuf = s.ibuf ∧
    t.linkVersion = s.linkVersion ∧ t.resets = s.resets

/-- The response registers, and with them the model's record of the last response and of the request not answered, have
not changed. OBUF is spoken of apart. -/
def SameResponseRegs (s t : State) : Prop :=
  t.status = s.status ∧ t.reason = s.reason ∧ t.rspCircId = s.rspCircId ∧ t.rspCmd = s.rspCmd ∧ t.outLen = s.outLen ∧
    t.draws = s.draws ∧ t.lastOp = s.lastOp ∧ t.pending = s.pending

/-- The transaction is over: idle, no transient left, the request side as it was, one more response given (R27, R136, R138), and it answers
the operation requested, so that no request waits (R146). -/
def Finished (s t : State) : Prop :=
  SameRequestSide s t ∧ t.stage = .idle ∧ t.circ = 0#32 ∧ t.cmd = 0#8 ∧ t.draws = s.draws + 1 ∧
    t.lastOp = some s.op ∧ t.pending = false

/-- A successful DECODE's response (R123). No OBUF byte at or above OUT_LEN is defined (R25, R44). -/
def GaveCell (s t : State) (c : ChannelCell) : Prop :=
  Finished s t ∧ t.status = 0#3 ∧ t.rspCircId = c.circ ∧ t.rspCmd = c.cmd ∧ t.outLen = c.body.length ∧ t.output = c.body ∧
    ∀ a, c.body.length ≤ a → t.obuf.read a = none

/-- A successful ENCODE's response (R124). -/
def GaveFrame (s t : State) (W : Bytes) : Prop :=
  Finished s t ∧ t.status = 0#3 ∧ t.outLen = W.length ∧ t.output = W ∧ ∀ a, W.length ≤ a → t.obuf.read a = none

/-- An error response (R123, R124, R136): the code, the reason of a policy violation, and no OBUF byte defined. -/
def GaveError (s t : State) (k : ErrorKind) : Prop :=
  Finished s t ∧ t.status = statusCode k ∧ (∀ r, k = .circuitIdPolicyViolation r → t.reason = reasonCode r) ∧
    ∀ a, t.obuf.read a = none

end Sys2Proof.Machine
end

