-- ==== Sys2Proof/Certificates/Slice0/Obligations.lean ====
section
/-! DEFINITION. The statements for the provers. Each docstring names the rule of spec/ it formalises; where a clause rests on a
decision of the spec or of the model it says which. Statements about bytes of OBUF that no rule defines say that the address holds
no value (log 6); nothing is said of a free value. -/

open Sys2Proof Sys2Proof.Machine

/-! ## Selectors and their decoding -/

/-- Encoding a well-formed instruction and decoding its selector gives it back, for every instruction and every operand its rows
admit (30_encoding.md R68, R72; the stage inside a UOP selector is R28's). -/
def Obligations.SelectorRoundTrip : Prop :=
  ∀ i : Instr, i.wellFormed = true → decodeSelector i.selector = .ok i

/-- What the decoder gives is well-formed, and its encoding is the selector it came from, except that HDR.PARSE is given for its
selector with any command bits, which are don't-care (R72). The stage beside SEL in a UOP selector is the model's choice: the folding of
D1, D2, D4 and E4 is log 11, the stage e01 of VALIDATE log 12. -/
def Obligations.DecodedInstructionIsWellFormed : Prop :=
  ∀ (sel : Selector) (i : Instr), decodeSelector sel = .ok i →
    i.wellFormed = true ∧ (i.selector = sel ∨ (i = .hdrParse ∧ ∃ m, sel = .uop .d0 (selOf 0 m)))

/-- Words written out from the rows of the table, one per mnemonic (R72; opcode_table.json). The stage beside a UOP word is not the
table's word but the model's choice: that D1 and D2 are taken at d0, D4 and E4 with the extraction and the payload, is log 11, and
that VALIDATE is selected by the stage e01 is log 12. -/
def Obligations.SpecWordsDecode : Prop :=
  decodeSelector (.req 0#1) = .ok .decode ∧
  decodeSelector (.req 1#1) = .ok .encode ∧
  decodeSelector (.cmd 0b00000000#8) = .ok .cmd0 ∧
  decodeSelector (.cmd 0b00000101#8) = .ok (.cmd1to6 5) ∧
  decodeSelector (.cmd 0b00000111#8) = .ok .cmd7 ∧
  decodeSelector (.cmd 0b01111111#8) = .ok (.cmd8to127 127) ∧
  decodeSelector (.cmd 0b10000000#8) = .ok .cmd128 ∧
  decodeSelector (.cmd 0b11001000#8) = .ok (.cmd129to255 200) ∧
  decodeSelector (.uop .d0 0b010101010#9) = .ok .hdrParse ∧
  decodeSelector (.uop .d3f 0b000000011#9) = .ok (.extFix 3) ∧
  decodeSelector (.uop .d3v 0b000000111#9) = .ok (.extVar 7) ∧
  decodeSelector (.uop .e0 0b100000010#9) = .ok (.valLen 2) ∧
  decodeSelector (.uop .e1 0b100000010#9) = .ok (.valCirc 2) ∧
  decodeSelector (.uop .e01 0b100000010#9) = .ok (.validate 2) ∧
  decodeSelector (.uop .e2 0b110000001#9) = .ok (.encHdr 129) ∧
  decodeSelector (.uop .e3v 0b110000001#9) = .ok (.encVar 129) ∧
  decodeSelector (.uop .e3f 0b101000000#9) = .ok (.encFix 64)

/-- The complete command map (R59): every value has the class, the framing and the circuit-id requirement of its row, and lies in
exactly one of the 18 blocks of R60, which the spec derives. -/
def Obligations.CommandMapIsComplete : Prop :=
  ∀ m : Command,
    (cmdRows.filter (fun r => r.matches m)).length = 1 ∧
    (m.toNat = 0 → decodeCommand m = .ok .cmd0 ∧ isVar m = false ∧ policyClass m = .absent) ∧
    (1 ≤ m.toNat ∧ m.toNat ≤ 6 → decodeCommand m = .ok (.cmd1to6 m) ∧ isVar m = false ∧ policyClass m = .present) ∧
    (m.toNat = 7 → decodeCommand m = .ok .cmd7 ∧ isVar m = true ∧ policyClass m = .absent) ∧
    (8 ≤ m.toNat ∧ m.toNat ≤ 127 → decodeCommand m = .ok (.cmd8to127 m) ∧ isVar m = false ∧ policyClass m = .present) ∧
    (m.toNat = 128 → decodeCommand m = .ok .cmd128 ∧ isVar m = true ∧ policyClass m = .absent) ∧
    (129 ≤ m.toNat → decodeCommand m = .ok (.cmd129to255 m) ∧ isVar m = true ∧ policyClass m = .unconstrained)

/-- A step of an instance with a transaction in progress runs, by exec, the instruction its selector decodes to; nothing is added around
exec. With none in progress a step waits and changes nothing (R13, R142, R147; that it is a step is log 21). For a transaction taken whole
the selector is OP; for one taken stage by stage it is SEL at the stage (R15, R28, R68; the cursor is log 1), with IBUF[4] as the command of
a DECODE of at least five bytes. Below that R68 defines no command, and whatever it is HDR.PARSE is run (log 22). The refusal of other
versions is R7's. -/
def Obligations.StepRunsDecodedInstruction : Prop :=
  ∀ (s : State),
    (∀ i, s.linkVersion = 4#8 → s.pending = true ∨ s.stage ≠ .idle → decodeSelector s.selector = .ok i → step s = exec i s) ∧
    (s.linkVersion = 4#8 → s.pending = false → s.stage = .idle → step s = .next s) ∧
    (s.linkVersion ≠ 4#8 → step s = .refused (.linkVersion s.linkVersion)) ∧
    (s.stage = .idle → s.selector = .req s.op) ∧
    (s.stage = .d0 → s.op = 0#1 → 5 ≤ s.inLen → s.selector = .uop .d0 (selOf 0 (s.ibufByte 4))) ∧
    (s.linkVersion = 4#8 → s.stage = .d0 → s.op = 0#1 → step s = exec .hdrParse s) ∧
    (s.stage ≠ .idle → s.stage ≠ .d0 → s.op = 0#1 → s.selector = .uop s.stage (selOf 0 s.cmd)) ∧
    (s.Inv → s.stage ≠ .idle → s.op = 0#1 → 5 ≤ s.inLen → s.selector = .uop s.stage (selOf 0 (s.ibufByte 4))) ∧
    (s.stage ≠ .idle → s.op = 1#1 → s.selector = .uop s.stage (selOf 1 s.reqCmd))

/-- The class rules and the two operations agree: for a request presented, a step is exec of the class instruction of its command,
selected by byte 4 of the input for DECODE and by REQ_CMD for ENCODE (R51, R72; that a class instruction is the whole
transaction is log 10, when a request counts as presented log 21). -/
def Obligations.StepRunsCommandClass : Prop :=
  ∀ (s : State) (i : Instr), s.linkVersion = 4#8 → s.stage = .idle → s.pending = true → s.requestClass = .ok i → step s = exec i s

/-! ## Classification and policy -/

/-- The classification bit by bit (R58, R73). -/
def Obligations.ClassificationByBits : Prop :=
  ∀ m : Command, (isVar m = true ↔ m.toNat = 7 ∨ 128 ≤ m.toNat) ∧ (isVar m = true ↔ m[7] = true ∨ m = 0b00000111#8)

/-- The truth table of PolicyCheck over the policy table (R74, R81). -/
def Obligations.PolicyCheckTruthTable : Prop :=
  ∀ (c : CircId) (m : Command),
    (policyClass m = .absent ↔ m.toNat = 0 ∨ m.toNat = 7 ∨ m.toNat = 128) ∧
    (policyClass m = .present ↔ (1 ≤ m.toNat ∧ m.toNat ≤ 6) ∨ (8 ≤ m.toNat ∧ m.toNat ≤ 127)) ∧
    (policyClass m = .unconstrained ↔ 129 ≤ m.toNat) ∧
    (policyCheck c m = .forbidden ↔ policyClass m = .absent ∧ c ≠ 0#32) ∧
    (policyCheck c m = .required ↔ policyClass m = .present ∧ c = 0#32) ∧
    (policyCheck c m = .pass ↔ ¬ (policyClass m = .absent ∧ c ≠ 0#32) ∧ ¬ (policyClass m = .present ∧ c = 0#32))

/-- How the two functions of the command are related (R83, which the spec derives). -/
def Obligations.PolicyFollowsFraming : Prop :=
  ∀ m : Command,
    (policyClass m = .present → isVar m = false) ∧
    (policyClass m = .unconstrained → isVar m = true) ∧
    (policyClass m = .absent ∧ isVar m = false ↔ m = 0#8) ∧
    (policyClass m = .absent ∧ isVar m = true ↔ m = 7#8 ∨ m = 128#8)

/-! ## Fields and stripping -/

/-- Big-endian fields: what each is, byte by byte, and that reading and writing undo each other (R9, R36, R56). -/
def Obligations.BigEndianFields : Prop :=
  (∀ b0 b1 b2 b3 : Byte, (be32 [b0, b1, b2, b3]).toNat =
      b0.toNat * 2 ^ 24 + b1.toNat * 2 ^ 16 + b2.toNat * 2 ^ 8 + b3.toNat) ∧
  (∀ b0 b1 : Byte, be16 [b0, b1] = b0.toNat * 256 + b1.toNat) ∧
  (∀ c : CircId, be32 (toBe32 c) = c) ∧
  (∀ n, n ≤ 65535 → be16 (toBe16 n) = n) ∧
  (∀ X : Bytes, X.length = 4 → toBe32 (be32 X) = X) ∧
  (∀ X : Bytes, X.length = 2 → toBe16 (be16 X) = X)

/-- `Strip(P) = P[0, k)` for the smallest `k` after which every byte is zero (R88). -/
def Obligations.StripIsShortest : Prop :=
  ∀ P : Bytes, ∃ k, k ≤ P.length ∧ strip P = P.take k ∧ (∀ i (h : i < P.length), k ≤ i → P[i] = 0#8) ∧
    ∀ j, j ≤ P.length → (∀ i (h : i < P.length), j ≤ i → P[i] = 0#8) → k ≤ j

/-- The eight properties of Strip, (a) to (h) (R89, which the spec derives). -/
def Obligations.StripLaws : Prop :=
  ∀ P : Bytes,
    (strip P <+: P ∧ (strip P).length ≤ P.length) ∧
    (strip P = [] ∨ (strip P).getLast? ≠ some 0#8) ∧
    strip P ++ zeros (P.length - (strip P).length) = P ∧
    strip (strip P) = strip P ∧
    (∀ k, strip (P ++ zeros k) = strip P) ∧
    (strip P = P ↔ P = [] ∨ P.getLast? ≠ some 0#8) ∧
    (∀ k, strip (zeros k) = []) ∧
    ∀ Q, strip P = strip Q ↔ (∃ k, P = Q ++ zeros k) ∨ ∃ k, Q = P ++ zeros k

/-! ## The four parts, as functions of byte sequences -/

/-- HdrParse (R85): IncompleteData exactly below five bytes, otherwise the circuit id and the command, whatever they are and
whatever follows (R86). -/
def Obligations.HeaderParserContract : Prop :=
  (∀ W : Bytes, hdrParse W = .error .incompleteData ↔ W.length < 5) ∧
  ∀ (b0 b1 b2 b3 m : Byte) (X : Bytes), ∃ c : CircId, hdrParse (b0 :: b1 :: b2 :: b3 :: m :: X) = .ok (c, m) ∧
    c.toNat = b0.toNat * 2 ^ 24 + b1.toNat * 2 ^ 16 + b2.toNat * 2 ^ 8 + b3.toNat

/-- ExtFix (R90): IncompleteData exactly below 514 bytes, otherwise the 509 payload bytes stripped, whatever follows them. -/
def Obligations.FixedExtractionContract : Prop :=
  (∀ W : Bytes, extFix W = .error .incompleteData ↔ W.length < 514) ∧
  ∀ H raw X : Bytes, H.length = 5 → raw.length = 509 → extFix (H ++ raw ++ X) = .ok (strip raw)

/-- ExtVar (R92, R93): IncompleteData exactly below 7 bytes; TruncatedBody when fewer bytes follow the variable header than Length
declares; otherwise exactly that many, unstripped, whatever follows them. -/
def Obligations.VariableExtractionContract : Prop :=
  (∀ W : Bytes, extVar W = .error .incompleteData ↔ W.length < 7) ∧
  (∀ (H R : Bytes) (l1 l0 : Byte), H.length = 5 → R.length < l1.toNat * 256 + l0.toNat →
    extVar (H ++ [l1, l0] ++ R) = .error .truncatedBody) ∧
  ∀ (H body X : Bytes) (l1 l0 : Byte), H.length = 5 → body.length = l1.toNat * 256 + l0.toNat →
    extVar (H ++ [l1, l0] ++ body ++ X) = .ok body

/-- ValLen and ValCirc (R95, R96): each error exactly under its condition, and nothing else refused. -/
def Obligations.ValidatorChecks : Prop :=
  ∀ (c : CircId) (m : Command) (n : Nat),
    (valLen m n = .error .bodyTooLong ↔ isVar m = false ∧ 510 ≤ n) ∧
    (valLen m n = .ok () ↔ ¬ (isVar m = false ∧ 510 ≤ n)) ∧
    (valCirc c m = .error (.circuitIdPolicyViolation .forbidden) ↔ (m.toNat = 0 ∨ m.toNat = 7 ∨ m.toNat = 128) ∧ c ≠ 0#32) ∧
    (valCirc c m = .error (.circuitIdPolicyViolation .required) ↔
      ((1 ≤ m.toNat ∧ m.toNat ≤ 6) ∨ (8 ≤ m.toNat ∧ m.toNat ≤ 127)) ∧ c = 0#32) ∧
    (129 ≤ m.toNat → valCirc c m = .ok ()) ∧
    (valCirc c m = .ok () ↔ policyCheck c m = .pass)

/-- Validate (R97, the order being the spec's decision D8): the length check decides first, and what holds once both pass (R99). -/
def Obligations.ValidateOrder : Prop :=
  ∀ (c : CircId) (m : Command) (n : Nat),
    (isVar m = false → 510 ≤ n → validate c m n = .error .bodyTooLong) ∧
    (¬ (isVar m = false ∧ 510 ≤ n) → validate c m n = valCirc c m) ∧
    (validate c m n = .ok () →
      (isVar m = false → n ≤ 509) ∧ (policyClass m = .absent → c = 0#32) ∧ (policyClass m = .present → c ≠ 0#32))

/-- EncHdr (R100): the four bytes of the circuit id as supplied, most significant first, then the command. -/
def Obligations.HeaderEncoding : Prop :=
  ∀ (c : CircId) (m : Command), encHdr c m =
    [c.extractLsb' 24 8, c.extractLsb' 16 8, c.extractLsb' 8 8, c.extractLsb' 0 8, m]

/-- EncVar (R102): two length bytes and the body unmodified up to 65535 bytes, BodyTooLong from 65536 on. -/
def Obligations.VariablePayloadEncoding : Prop :=
  ∀ body : Bytes,
    (body.length ≤ 65535 → ∃ l1 l0 : Byte, encVar body = .ok (l1 :: l0 :: body) ∧ l1.toNat * 256 + l0.toNat = body.length) ∧
    (65536 ≤ body.length → encVar body = .error .bodyTooLong)

/-- EncFix (R104): exactly 509 bytes, the body and then zeros. -/
def Obligations.FixedPayloadEncoding : Prop :=
  ∀ body : Bytes, body.length ≤ 509 →
    (encFix body).length = 509 ∧ (encFix body).take body.length = body ∧
      ∀ i, body.length ≤ i → i < 509 → (encFix body)[i]? = some 0#8

/-! ## The two operations, as functions of byte sequences -/

/-- decode (R107), every case: each error under exactly its condition, in the order checked, and the triple otherwise, its circuit id
and command as read. -/
def Obligations.DecodeCases : Prop :=
  ∀ W : Bytes,
    (W.length < 5 → decodeCell W = .error .incompleteData) ∧
    ∀ h : 5 ≤ W.length,
      (isVar W[4] = false → W.length < 514 → decodeCell W = .error .incompleteData) ∧
      (isVar W[4] = false → 514 ≤ W.length → decodeCell W = .ok ⟨circField W, W[4], strip (slice W 5 514)⟩) ∧
      (isVar W[4] = true → W.length < 7 → decodeCell W = .error .incompleteData) ∧
      (isVar W[4] = true → 7 ≤ W.length → W.length < 7 + be16 (slice W 5 7) → decodeCell W = .error .truncatedBody) ∧
      (isVar W[4] = true → 7 + be16 (slice W 5 7) ≤ W.length →
        decodeCell W = .ok ⟨circField W, W[4], slice W 7 (7 + be16 (slice W 5 7))⟩)

/-- encode (R108), every case, the checks in the order of R109 (the spec's decision D8): fixed-length bound, policy, 65535 bound. -/
def Obligations.EncodeCases : Prop :=
  ∀ (c : CircId) (m : Command) (body : Bytes),
    (isVar m = false → 509 < body.length → encodeCell c m body = .error .bodyTooLong) ∧
    (isVar m = true ∨ body.length ≤ 509 → policyCheck c m = .forbidden →
      encodeCell c m body = .error (.circuitIdPolicyViolation .forbidden)) ∧
    (isVar m = true ∨ body.length ≤ 509 → policyCheck c m = .required →
      encodeCell c m body = .error (.circuitIdPolicyViolation .required)) ∧
    (isVar m = true → policyCheck c m = .pass → 65535 < body.length → encodeCell c m body = .error .bodyTooLong) ∧
    (isVar m = true → policyCheck c m = .pass → body.length ≤ 65535 →
      encodeCell c m body = .ok (toBe32 c ++ [m] ++ toBe16 body.length ++ body)) ∧
    (isVar m = false → policyCheck c m = .pass → body.length ≤ 509 →
      encodeCell c m body = .ok (toBe32 c ++ [m] ++ body ++ zeros (509 - body.length)))

/-- Class CMD0 (R75) under decode and under encode. That the circuit id is returned as read is the spec's decision D7, the order of
the checks its decision D8. -/
def Obligations.Command0Rule : Prop :=
  (∀ W : Bytes, W[4]? = some 0#8 →
    (W.length < 514 → decodeCell W = .error .incompleteData) ∧
    (514 ≤ W.length → decodeCell W = .ok ⟨circField W, 0, strip (slice W 5 514)⟩)) ∧
  ∀ (c : CircId) (body : Bytes),
    (509 < body.length → encodeCell c 0 body = .error .bodyTooLong) ∧
    (body.length ≤ 509 → c ≠ 0#32 → encodeCell c 0 body = .error (.circuitIdPolicyViolation .forbidden)) ∧
    (body.length ≤ 509 → c = 0#32 → encodeCell c 0 body = .ok ([0, 0, 0, 0, 0] ++ body ++ zeros (509 - body.length)))

/-- Classes CMD1_6 and CMD8_127 (R76, R78) under decode and under encode; the length check wins over the policy
(the spec's decision D8), and the circuit id is returned as read (D7). -/
def Obligations.CommandsThatNeedACircuitRule : Prop :=
  ∀ m : Command, (1 ≤ m.toNat ∧ m.toNat ≤ 6) ∨ (8 ≤ m.toNat ∧ m.toNat ≤ 127) →
    (∀ W : Bytes, W[4]? = some m →
      (W.length < 514 → decodeCell W = .error .incompleteData) ∧
      (514 ≤ W.length → decodeCell W = .ok ⟨circField W, m, strip (slice W 5 514)⟩)) ∧
    ∀ (c : CircId) (body : Bytes),
      (509 < body.length → encodeCell c m body = .error .bodyTooLong) ∧
      (body.length ≤ 509 → c = 0#32 → encodeCell c m body = .error (.circuitIdPolicyViolation .required)) ∧
      (body.length ≤ 509 → c ≠ 0#32 →
        encodeCell c m body = .ok (toBe32 c ++ [m] ++ body ++ zeros (509 - body.length)))

/-- Classes CMD7 and CMD128 (R77, R79) under decode and under encode, the policy before the 65535 bound (the spec's decision D8). -/
def Obligations.Commands7And128Rule : Prop :=
  ∀ m : Command, m.toNat = 7 ∨ m.toNat = 128 →
    (∀ W : Bytes, W[4]? = some m →
      (W.length < 7 → decodeCell W = .error .incompleteData) ∧
      (7 ≤ W.length → W.length < 7 + be16 (slice W 5 7) → decodeCell W = .error .truncatedBody) ∧
      (7 + be16 (slice W 5 7) ≤ W.length →
        decodeCell W = .ok ⟨circField W, m, slice W 7 (7 + be16 (slice W 5 7))⟩)) ∧
    ∀ (c : CircId) (body : Bytes),
      (c ≠ 0#32 → encodeCell c m body = .error (.circuitIdPolicyViolation .forbidden)) ∧
      (c = 0#32 → 65535 < body.length → encodeCell c m body = .error .bodyTooLong) ∧
      (c = 0#32 → body.length ≤ 65535 → encodeCell c m body = .ok ([0, 0, 0, 0, m] ++ toBe16 body.length ++ body))

/-- Class CMD129_255 (R80, R62) under decode and under encode: any circuit id passes. -/
def Obligations.Commands129To255Rule : Prop :=
  ∀ m : Command, 129 ≤ m.toNat →
    (∀ W : Bytes, W[4]? = some m →
      (W.length < 7 → decodeCell W = .error .incompleteData) ∧
      (7 ≤ W.length → W.length < 7 + be16 (slice W 5 7) → decodeCell W = .error .truncatedBody) ∧
      (7 + be16 (slice W 5 7) ≤ W.length →
        decodeCell W = .ok ⟨circField W, m, slice W 7 (7 + be16 (slice W 5 7))⟩)) ∧
    ∀ (c : CircId) (body : Bytes),
      (65535 < body.length → encodeCell c m body = .error .bodyTooLong) ∧
      (body.length ≤ 65535 → encodeCell c m body = .ok (toBe32 c ++ [m] ++ toBe16 body.length ++ body))

/-- Extraction depends on the classification and on nothing else of the command, which passes through unchanged (R82). -/
def Obligations.ExtractionDependsOnClassification : Prop :=
  ∀ (H X : Bytes) (m m' : Command), H.length = 4 → isVar m = isVar m' →
    decodeCell (H ++ m' :: X) = (decodeCell (H ++ m :: X)).map (fun cell => { cell with cmd := m' })

/-- decode applies no policy (R84, the spec's decision D7): every circuit id is returned with every command. -/
def Obligations.DecodeAppliesNoPolicy : Prop :=
  ∀ (c : CircId) (m : Command),
    (∀ P : Bytes, isVar m = false → P.length = 509 → decodeCell (toBe32 c ++ m :: P) = .ok ⟨c, m, strip P⟩) ∧
    (∀ body : Bytes, isVar m = true → body.length ≤ 65535 →
      decodeCell (toBe32 c ++ m :: (toBe16 body.length ++ body)) = .ok ⟨c, m, body⟩)

/-! ## Laws of the two operations -/

/-- The variable-length round trip is exact (R114). -/
def Obligations.VariableRoundTrip : Prop :=
  ∀ (c : CircId) (m : Command) (body W : Bytes), isVar m = true → encodeCell c m body = .ok W →
    decodeCell W = .ok ⟨c, m, body⟩

/-- The fixed-length round trip is exact up to trailing zeros, and exact exactly when the body is empty or ends in a nonzero byte
(R115). -/
def Obligations.FixedRoundTrip : Prop :=
  ∀ (c : CircId) (m : Command) (body W : Bytes), isVar m = false → encodeCell c m body = .ok W →
    decodeCell W = .ok ⟨c, m, strip body⟩ ∧
    (decodeCell W = .ok ⟨c, m, body⟩ ↔ body = [] ∨ body.getLast? ≠ some 0#8)

/-- TCC's fixed-length property as R117 qualifies it: with circuit id 5 for the commands 1 to 6 and 8 to 127, with circuit id 0 for
command 0, and for command 0 with circuit id 5 the refusal that makes the unqualified wording false. -/
def Obligations.FixedRoundTripQualified : Prop :=
  ∀ body : Bytes, body.length ≤ 509 →
    (∀ m : Command, isVar m = false → m ≠ 0#8 → roundtrip 5 m body = .cell ⟨5, m, strip body⟩) ∧
    roundtrip 0 0 body = .cell ⟨0, 0, strip body⟩ ∧
    encodeCell 5 0 body = .error (.circuitIdPolicyViolation .forbidden)

/-- Bytes after the frame are ignored (R113, which the spec derives): the frame alone, and the frame with anything behind it, decode
alike. -/
def Obligations.TrailingBytesAreIgnored : Prop :=
  ∀ (W X : Bytes) (cell : ChannelCell), decodeCell W = .ok cell →
    decodeCell (W ++ X) = .ok cell ∧
    (isVar cell.cmd = false → decodeCell (W.take 514) = .ok cell) ∧
    (isVar cell.cmd = true → decodeCell (W.take (7 + cell.body.length)) = .ok cell)

/-- encode forgets trailing zeros of fixed-length bodies, nothing else of them, and nothing of variable-length ones (R116, which the
spec derives; that equal fixed-length frames come from bodies of equal Strip rests on R115). -/
def Obligations.EncodeForgetsOnlyTrailingZeros : Prop :=
  (∀ (c : CircId) (m : Command) (body : Bytes) (k : Nat), isVar m = false → body.length + k ≤ 509 →
    encodeCell c m (body ++ zeros k) = encodeCell c m body) ∧
  (∀ (c c' : CircId) (m m' : Command) (b b' W : Bytes), isVar m = false →
    encodeCell c m b = .ok W → encodeCell c' m' b' = .ok W → c = c' ∧ m = m' ∧ strip b = strip b') ∧
  ∀ (c c' : CircId) (m m' : Command) (b b' W : Bytes), isVar m = true → isVar m' = true →
    encodeCell c m b = .ok W → encodeCell c' m' b' = .ok W → c = c' ∧ m = m' ∧ b = b'

/-- Re-encoding a decoded frame restores it, when the policy admits the triple, and is refused by the policy otherwise (R118, which
the spec derives). -/
def Obligations.ReencodingRestoresTheFrame : Prop :=
  ∀ (W : Bytes) (cell : ChannelCell), decodeCell W = .ok cell →
    (policyCheck cell.circ cell.cmd = .pass →
      encodeCell cell.circ cell.cmd cell.body = .ok (W.take (frameLen cell.cmd cell.body.length))) ∧
    (policyCheck cell.circ cell.cmd = .forbidden →
      encodeCell cell.circ cell.cmd cell.body = .error (.circuitIdPolicyViolation .forbidden)) ∧
    (policyCheck cell.circ cell.cmd = .required →
      encodeCell cell.circ cell.cmd cell.body = .error (.circuitIdPolicyViolation .required))

/-- decode on the proper prefixes of a frame, the frame itself being `W` with nothing behind it (R119, which the spec derives). -/
def Obligations.PrefixesOfAFrameFail : Prop :=
  ∀ (W : Bytes) (cell : ChannelCell) (k : Nat), decodeCell W = .ok cell →
    W.length = frameLen cell.cmd cell.body.length → k < W.length →
    (k ≤ 4 → decodeCell (W.take k) = .error .incompleteData) ∧
    (isVar cell.cmd = false → decodeCell (W.take k) = .error .incompleteData) ∧
    (isVar cell.cmd = true → k ≤ 6 → decodeCell (W.take k) = .error .incompleteData) ∧
    (isVar cell.cmd = true → 7 ≤ k → decodeCell (W.take k) = .error .truncatedBody)

/-- Frame lengths and result ranges (R110 to R112, which the spec derives). -/
def Obligations.FrameLengthsAndRanges : Prop :=
  (∀ (c : CircId) (m : Command) (body W : Bytes), encodeCell c m body = .ok W →
    W.length = frameLen m body.length ∧ (W.length = 514 ∨ (7 ≤ W.length ∧ W.length ≤ 65542)) ∧
    W.take 4 = toBe32 c ∧ W[4]? = some m ∧ (isVar m = true → be16 (slice W 5 7) = body.length ∧ body.length = W.length - 7)) ∧
  ∀ (W : Bytes) (cell : ChannelCell), decodeCell W = .ok cell →
    (isVar cell.cmd = false → cell.body.length ≤ 509 ∧ (cell.body = [] ∨ cell.body.getLast? ≠ some 0#8)) ∧
    (isVar cell.cmd = true → cell.body.length ≤ 65535) ∧ frameLen cell.cmd (if isVar cell.cmd then cell.body.length else 0) ≤ W.length

/-! ## The operations at the ports -/

/-- DECODE at the ports (R123; the codes and what a failure leaves are the spec's decisions D5, D9): every outcome of decode is a
next state with its response. -/
def Obligations.DecodeAtThePorts : Prop :=
  ∀ s : State,
    (∀ cell, decodeCell s.input = .ok cell → ∃ t, exec .decode s = .next t ∧ GaveCell s t cell) ∧
    (decodeCell s.input = .error .incompleteData →
      ∃ t, exec .decode s = .next t ∧ GaveError s t .incompleteData ∧ t.status = 1#3) ∧
    (decodeCell s.input = .error .truncatedBody →
      ∃ t, exec .decode s = .next t ∧ GaveError s t .truncatedBody ∧ t.status = 2#3)

/-- ENCODE at the ports (R124; decisions D5, D6, D9): every outcome of encode is a next state with its response. -/
def Obligations.EncodeAtThePorts : Prop :=
  ∀ s : State,
    (∀ W, encodeCell s.reqCircId s.reqCmd s.input = .ok W → ∃ t, exec .encode s = .next t ∧ GaveFrame s t W) ∧
    (encodeCell s.reqCircId s.reqCmd s.input = .error .bodyTooLong →
      ∃ t, exec .encode s = .next t ∧ GaveError s t .bodyTooLong ∧ t.status = 3#3) ∧
    (encodeCell s.reqCircId s.reqCmd s.input = .error (.circuitIdPolicyViolation .forbidden) →
      ∃ t, exec .encode s = .next t ∧ GaveError s t (.circuitIdPolicyViolation .forbidden) ∧ t.status = 4#3 ∧ t.reason = 0#1) ∧
    (encodeCell s.reqCircId s.reqCmd s.input = .error (.circuitIdPolicyViolation .required) →
      ∃ t, exec .encode s = .next t ∧ GaveError s t (.circuitIdPolicyViolation .required) ∧ t.status = 4#3 ∧ t.reason = 1#1)

/-- CMD0 as an instruction (R75 at the ports of R123 and R124, log 10). -/
def Obligations.Command0AtThePorts : Prop :=
  ∀ s : State,
    (s.op = 0#1 → s.inLen < 514 → ∃ t, exec .cmd0 s = .next t ∧ GaveError s t .incompleteData) ∧
    (s.op = 0#1 → 514 ≤ s.inLen →
      ∃ t, exec .cmd0 s = .next t ∧ GaveCell s t ⟨circField s.input, 0, strip (slice s.input 5 514)⟩) ∧
    (s.op = 1#1 → 509 < s.inLen → ∃ t, exec .cmd0 s = .next t ∧ GaveError s t .bodyTooLong) ∧
    (s.op = 1#1 → s.inLen ≤ 509 → s.reqCircId ≠ 0#32 →
      ∃ t, exec .cmd0 s = .next t ∧ GaveError s t (.circuitIdPolicyViolation .forbidden)) ∧
    (s.op = 1#1 → s.inLen ≤ 509 → s.reqCircId = 0#32 →
      ∃ t, exec .cmd0 s = .next t ∧ GaveFrame s t ([0, 0, 0, 0, 0] ++ s.input ++ zeros (509 - s.inLen)))

/-- CMD1_6 and CMD8_127 as instructions (R76, R78 at the ports, log 10), for every operand. -/
def Obligations.CommandsThatNeedACircuitAtThePorts : Prop :=
  ∀ (s : State) (m : Command) (i : Instr), i = .cmd1to6 m ∨ i = .cmd8to127 m →
    (s.op = 0#1 → s.inLen < 514 → ∃ t, exec i s = .next t ∧ GaveError s t .incompleteData) ∧
    (s.op = 0#1 → 514 ≤ s.inLen →
      ∃ t, exec i s = .next t ∧ GaveCell s t ⟨circField s.input, m, strip (slice s.input 5 514)⟩) ∧
    (s.op = 1#1 → 509 < s.inLen → ∃ t, exec i s = .next t ∧ GaveError s t .bodyTooLong) ∧
    (s.op = 1#1 → s.inLen ≤ 509 → s.reqCircId = 0#32 →
      ∃ t, exec i s = .next t ∧ GaveError s t (.circuitIdPolicyViolation .required)) ∧
    (s.op = 1#1 → s.inLen ≤ 509 → s.reqCircId ≠ 0#32 →
      ∃ t, exec i s = .next t ∧ GaveFrame s t (toBe32 s.reqCircId ++ [m] ++ s.input ++ zeros (509 - s.inLen)))

/-- CMD7 and CMD128 as instructions (R77, R79 at the ports, log 10). -/
def Obligations.Commands7And128AtThePorts : Prop :=
  ∀ (s : State) (m : Command) (i : Instr), (m = 7#8 ∧ i = .cmd7) ∨ (m = 128#8 ∧ i = .cmd128) →
    (s.op = 0#1 → s.inLen < 7 → ∃ t, exec i s = .next t ∧ GaveError s t .incompleteData) ∧
    (s.op = 0#1 → 7 ≤ s.inLen → s.inLen < 7 + be16 (slice s.input 5 7) →
      ∃ t, exec i s = .next t ∧ GaveError s t .truncatedBody) ∧
    (s.op = 0#1 → 7 ≤ s.inLen → 7 + be16 (slice s.input 5 7) ≤ s.inLen →
      ∃ t, exec i s = .next t ∧
        GaveCell s t ⟨circField s.input, m, slice s.input 7 (7 + be16 (slice s.input 5 7))⟩) ∧
    (s.op = 1#1 → s.reqCircId ≠ 0#32 →
      ∃ t, exec i s = .next t ∧ GaveError s t (.circuitIdPolicyViolation .forbidden)) ∧
    (s.op = 1#1 → s.reqCircId = 0#32 → 65535 < s.inLen → ∃ t, exec i s = .next t ∧ GaveError s t .bodyTooLong) ∧
    (s.op = 1#1 → s.reqCircId = 0#32 → s.inLen ≤ 65535 →
      ∃ t, exec i s = .next t ∧ GaveFrame s t ([0, 0, 0, 0, m] ++ toBe16 s.inLen ++ s.input))

/-- CMD129_255 as an instruction (R80 at the ports, log 10): no circuit id is refused. -/
def Obligations.Commands129To255AtThePorts : Prop :=
  ∀ (s : State) (m : Command),
    (s.op = 0#1 → s.inLen < 7 → ∃ t, exec (.cmd129to255 m) s = .next t ∧ GaveError s t .incompleteData) ∧
    (s.op = 0#1 → 7 ≤ s.inLen → s.inLen < 7 + be16 (slice s.input 5 7) →
      ∃ t, exec (.cmd129to255 m) s = .next t ∧ GaveError s t .truncatedBody) ∧
    (s.op = 0#1 → 7 ≤ s.inLen → 7 + be16 (slice s.input 5 7) ≤ s.inLen →
      ∃ t, exec (.cmd129to255 m) s = .next t ∧
        GaveCell s t ⟨circField s.input, m, slice s.input 7 (7 + be16 (slice s.input 5 7))⟩) ∧
    (s.op = 1#1 → 65535 < s.inLen → ∃ t, exec (.cmd129to255 m) s = .next t ∧ GaveError s t .bodyTooLong) ∧
    (s.op = 1#1 → s.inLen ≤ 65535 →
      ∃ t, exec (.cmd129to255 m) s = .next t ∧
        GaveFrame s t (toBe32 s.reqCircId ++ [m] ++ toBe16 s.inLen ++ s.input))

/-! ## The micro-operations as stages -/

/-- HDR.PARSE as a stage (R85, R94; the transients and the cursor are R27's and R28's, log 1): below five bytes the error response,
otherwise the pair is read, the extraction is chosen by the classification, and nothing else changes. -/
def Obligations.HeaderParseStage : Prop :=
  ∀ s : State,
    (s.inLen < 5 → ∃ t, exec .hdrParse s = .next t ∧ GaveError s t .incompleteData) ∧
    (5 ≤ s.inLen → ∃ t, exec .hdrParse s = .next t ∧
      t.circ.toNat = (s.ibufByte 0).toNat * 2 ^ 24 + (s.ibufByte 1).toNat * 2 ^ 16 + (s.ibufByte 2).toNat * 2 ^ 8
        + (s.ibufByte 3).toNat ∧
      t.cmd = s.ibufByte 4 ∧ t.stage = (if isVar (s.ibufByte 4) then .d3v else .d3f) ∧
      SameRequestSide s t ∧ SameResponseRegs s t ∧ ∀ a, t.obuf.read a = s.obuf.read a)

/-- EXT.FIX and EXT.VAR as stages (R90, R92; the response is stage D4's, log 11): each outcome's response, the body going to OBUF
from address 0. -/
def Obligations.ExtractionStages : Prop :=
  ∀ (s : State) (m : Command),
    (s.inLen < 514 → ∃ t, exec (.extFix m) s = .next t ∧ GaveError s t .incompleteData) ∧
    (514 ≤ s.inLen →
      ∃ t, exec (.extFix m) s = .next t ∧ GaveCell s t ⟨s.circ, m, strip (slice s.input 5 514)⟩) ∧
    (s.inLen < 7 → ∃ t, exec (.extVar m) s = .next t ∧ GaveError s t .incompleteData) ∧
    (7 ≤ s.inLen → s.inLen < 7 + be16 (slice s.input 5 7) →
      ∃ t, exec (.extVar m) s = .next t ∧ GaveError s t .truncatedBody) ∧
    (7 ≤ s.inLen → 7 + be16 (slice s.input 5 7) ≤ s.inLen →
      ∃ t, exec (.extVar m) s = .next t ∧ GaveCell s t ⟨s.circ, m, slice s.input 7 (7 + be16 (slice s.input 5 7))⟩)

/-- VAL.LEN, VAL.CIRC and VALIDATE as stages (R95, R96, R97; the order inside VALIDATE is the spec's decision D8): a pass moves the
cursor and changes nothing else; a failure is the error response. -/
def Obligations.ValidationStages : Prop :=
  ∀ (s : State) (m : Command),
    (isVar m = false → 509 < s.inLen → ∃ t, exec (.valLen m) s = .next t ∧ GaveError s t .bodyTooLong) ∧
    (isVar m = true ∨ s.inLen ≤ 509 → exec (.valLen m) s = .next { s with stage := .e1 }) ∧
    (policyCheck s.reqCircId m = .forbidden →
      ∃ t, exec (.valCirc m) s = .next t ∧ GaveError s t (.circuitIdPolicyViolation .forbidden)) ∧
    (policyCheck s.reqCircId m = .required →
      ∃ t, exec (.valCirc m) s = .next t ∧ GaveError s t (.circuitIdPolicyViolation .required)) ∧
    (policyCheck s.reqCircId m = .pass → exec (.valCirc m) s = .next { s with stage := .e2 }) ∧
    (isVar m = false → 509 < s.inLen → ∃ t, exec (.validate m) s = .next t ∧ GaveError s t .bodyTooLong) ∧
    (isVar m = true ∨ s.inLen ≤ 509 → exec (.validate m) s = exec (.valCirc m) s)

/-- ENC.HDR as a stage (R100, R39; the cursor is log 1): five bytes of OBUF written, every other byte and everything else but the cursor unchanged. -/
def Obligations.HeaderEncodeStage : Prop :=
  ∀ (s : State) (m : Command), ∃ t, exec (.encHdr m) s = .next t ∧
    t.stage = (if isVar m then .e3v else .e3f) ∧
    (∀ a, t.obuf.read a =
      if a = 0 then some (s.reqCircId.extractLsb' 24 8) else if a = 1 then some (s.reqCircId.extractLsb' 16 8)
      else if a = 2 then some (s.reqCircId.extractLsb' 8 8) else if a = 3 then some (s.reqCircId.extractLsb' 0 8)
      else if a = 4 then some m else s.obuf.read a) ∧
    SameRequestSide s t ∧ SameResponseRegs s t ∧ t.circ = s.circ ∧ t.cmd = s.cmd

/-- ENC.VAR as a stage (R102, R39; the response is stage E4's, log 11): Length at 5, the body at 7, the header bytes as they were;
above 65535 bytes the error response. -/
def Obligations.VariableEncodeStage : Prop :=
  ∀ (s : State) (m : Command),
    (65535 < s.inLen → ∃ t, exec (.encVar m) s = .next t ∧ GaveError s t .bodyTooLong) ∧
    (s.inLen ≤ 65535 → ∃ t, exec (.encVar m) s = .next t ∧ Finished s t ∧ t.status = 0#3 ∧ t.outLen = 7 + s.inLen ∧
      (∀ a, t.obuf.read a =
        if a < 5 then s.obuf.read a
        else if a = 5 then some (BitVec.ofNat 8 (s.inLen / 256)) else if a = 6 then some (BitVec.ofNat 8 s.inLen)
        else if a < 7 + s.inLen then some (s.ibufByte (a - 7)) else none))

/-- ENC.FIX as a stage (R104, R39; the response is stage E4's, log 11): the body at 5, zeros up to byte 513, the header bytes as they
were. Its precondition is R104's; outside it the model faults (log 13). -/
def Obligations.FixedEncodeStage : Prop :=
  ∀ (s : State) (m : Command),
    (s.inLen ≤ 509 → ∃ t, exec (.encFix m) s = .next t ∧ Finished s t ∧ t.status = 0#3 ∧ t.outLen = 514 ∧
      (∀ a, t.obuf.read a =
        if a < 5 then s.obuf.read a
        else if a < 5 + s.inLen then some (s.ibufByte (a - 5)) else if a < 514 then some 0#8 else none)) ∧
    (509 < s.inLen → exec (.encFix m) s = .fault .encFixUnvalidated)

/-! ## Whole-machine rules -/

/-- The frame of every instruction: the request side and IBUF never change; and either the transaction is over, with a status of at
most 4 and no OBUF byte at or above OUT_LEN defined, or it goes on with every response register as it was and every OBUF byte too
but the five ENC.HDR writes (R18, R20, R44, R136; the stages as steps are log 1, the undefined bytes log 6). -/
def Obligations.FrameOfEveryInstruction : Prop :=
  ∀ (i : Instr) (s t : State), exec i s = .next t →
    SameRequestSide s t ∧ (∀ a, t.ibufByte a = s.ibufByte a) ∧
    ((Finished s t ∧ t.status.toNat ≤ 4 ∧ ∀ a, t.outLen ≤ a → t.obuf.read a = none) ∨
      (t.stage ≠ .idle ∧ SameResponseRegs s t ∧
        ∀ a, ((∃ m, i = .encHdr m) → 5 ≤ a) → t.obuf.read a = s.obuf.read a))

/-- The response is a function of the request and of nothing else (R13, R43, R120): two instances to which requests have been presented
with the same operation and length, the same input bytes below IN_LEN and, for ENCODE, the same circuit id and command, answer alike,
whatever else they hold. The codes are the spec's decision D5, when a request counts as presented log 21. -/
def Obligations.ResponseDependsOnRequestOnly : Prop :=
  ∀ s t : State, s.linkVersion = 4#8 → t.linkVersion = 4#8 → s.stage = .idle → t.stage = .idle → s.pending = true → t.pending = true →
    SameRequest s t →
    ∃ s' t' r, step s = .next s' ∧ step t = .next t' ∧ s'.response = some r ∧ t'.response = some r

/-- The stages in order are the transaction (R28, R94, R97, R107, R108; a stage as a step of its own is the model's, log 1, 11, 12): taken stage by stage, with or without VALIDATE as one stage,
an operation ends in exactly the state its atomic step gives. -/
def Obligations.StagesRefineTheTransaction : Prop :=
  ∀ s : State, s.linkVersion = 4#8 →
    runStages 4 s.beginStages = exec (decodeOp s.op) s ∧ runStages 3 s.beginComposite = exec (decodeOp s.op) s

/-- ROUNDTRIP at the ports (R71, R114, R115): an instance given an ENCODE that passes its checks, and then a DECODE of its own OBUF,
answers the same triple, the body stripped when the command is fixed-length; the instance has no request unanswered before (log 21). The registers are the spec's decision D5 and D9. -/
def Obligations.RoundTripAtThePorts : Prop :=
  ∀ (s : State) (c : CircId) (m : Command) (body : Bytes), s.linkVersion = 4#8 → s.stage = .idle → s.pending = false →
    policyCheck c m = .pass → body.length ≤ (if isVar m then 65535 else 509) →
    ∃ t, runRoundtrip s c m body = .next t ∧ t.response = some (.cell ⟨c, m, if isVar m then body else strip body⟩)

/-- The invariant: version 4, lengths that fit their registers, a status of at most 4, canonical buffers at addresses that exist, and a
stage cursor whose earlier checks have passed and which no stage is at but for a request presented. Every step keeps it (R13, R20, R26,
R28, R33, R44, R99; lengths as numbers are log 3, the cursor log 1, the record of a request presented log 21). -/
def Obligations.InvariantIsKept : Prop :=
  ∀ s t : State, s.Inv → step s = .next t → t.Inv

/-- The reset condition has the invariant, and reset gives LINK_VERSION 4, an idle cursor and no request
pending (R31, R147, the spec's decision; the record of a request is log 21). Of the
registers R31 leaves unspecified (log 4) it says only that they fit. -/
def Obligations.ResetHasTheInvariant : Prop :=
  State.reset.Inv ∧ State.reset.linkVersion = 4#8 ∧ State.reset.stage = .idle ∧ State.reset.pending = false ∧
    ∀ s : State, s.applyReset.linkVersion = 4#8 ∧ s.applyReset.stage = .idle ∧ s.applyReset.pending = false ∧
      s.applyReset.circ = 0#32 ∧ s.applyReset.cmd = 0#8

/-- From a state that has the invariant every step answers: no fault, no refusal, nothing stuck (R122, R132; for a step inside a
transaction, log 1; a step with no request presented waits, log 21). -/
def Obligations.EveryStepAnswers : Prop :=
  ∀ s : State, s.Inv → ∃ t, step s = .next t

/-- What the host may do keeps the invariant (R152): construction, reset at any time, and presenting any request that fits. -/
def Obligations.HostMovesKeepTheInvariant : Prop :=
  (∀ v t, State.construct v = .next t → t.Inv) ∧
  ∀ s : State, s.Inv → s.applyReset.Inv ∧
    (∀ W t, s.presentDecode W = .next t → t.Inv) ∧ ∀ c m body t, s.presentEncode c m body = .next t → t.Inv

/-- Construction for another version (R7, log 9) and requests without meaning are refused, and no other is: a request while a transaction is
in progress, which begins when its request is presented (R47, R142, R146, R152, U6, U7), and one longer than LEN_W can count (U10; log
16). That presenting is the host's move and that a field of the model's own records it until the response is the model's choice (log
21). After a reset a request is accepted again (R142, R147). -/
def Obligations.RequestsWithoutMeaningAreRefused : Prop :=
  (∀ v, State.construct v = if v = 4#8 then .next State.reset else .refused (.linkVersion v)) ∧
  ∀ (s : State) (c : CircId) (m : Command) (W : Bytes),
    (s.pending = true ∨ s.stage ≠ .idle → s.presentDecode W = .refused .transactionInProgress ∧
      s.presentEncode c m W = .refused .transactionInProgress) ∧
    (s.pending = false → s.stage = .idle → 2 ^ Config.lenW ≤ W.length → s.presentDecode W = .refused (.tooLongForLenW W.length) ∧
      s.presentEncode c m W = .refused (.tooLongForLenW W.length)) ∧
    (s.pending = false → s.stage = .idle → W.length < 2 ^ Config.lenW →
      (∃ t, s.presentDecode W = .next t ∧ t.op = 0#1 ∧ t.input = W ∧ t.pending = true) ∧
      ∃ t, s.presentEncode c m W = .next t ∧ t.op = 1#1 ∧ t.reqCircId = c ∧ t.reqCmd = m ∧ t.input = W ∧ t.pending = true) ∧
    (W.length < 2 ^ Config.lenW → (∃ t, s.applyReset.presentDecode W = .next t) ∧ ∃ t, s.applyReset.presentEncode c m W = .next t)

/-- Instances share nothing (R145): steps of two different instances give the same result in either order. That several instances are
a list of separate states, stepped one at a time, is the model's choice (log 18). -/
def Obligations.InstancesAreIndependent : Prop :=
  ∀ (xs : List State) (j k : Nat), (∀ s ∈ xs, s.Inv) → j ≠ k →
    stepTwo j k xs = stepTwo k j xs ∧ ∃ ys, stepTwo j k xs = .next ys

/-- What the host reads. After a transaction exactly what R30 defines for its operation and outcome: the response of DECODE (R123) or
ENCODE (R124), the registers that belong to it, and of OBUF the output; another byte of OBUF is the host's fault (R152, U1, D9). Before
the first transaction since reset every register and byte of OBUF reads, and nothing is said of the values (R32, U2). From presenting a
request to its response no read answers (R46, R48), and presenting alone changes nothing that would be read. The form of the reads, and
that one without meaning faults or is refused by name, is the model's choice (log 16, 20, 21). -/
def Obligations.HostReadsOnlyWhatIsDefined : Prop :=
  ∀ s : State,
    (∀ a, 2 ^ Config.lenW ≤ a → s.hostReadObuf a = .fault (.noSuchAddress a)) ∧
    (s.pending = true ∨ s.stage ≠ .idle → s.hostReadResponse = .refused .transactionInProgress ∧
      s.hostReadRegisters = .refused .transactionInProgress ∧
      ∀ a, a < 2 ^ Config.lenW → s.hostReadObuf a = .refused .transactionInProgress) ∧
    (∀ r : State, r = State.reset ∨ r = s.applyReset → r.hostReadResponse = .next none ∧
      (∃ st rs ci cm n, r.hostReadRegisters = .next ⟨st, some rs, some ci, some cm, some n⟩) ∧
      ∀ a, a < 2 ^ Config.lenW → ∃ b, r.hostReadObuf a = .next b) ∧
    (s.linkVersion = 4#8 → s.stage = .idle → s.pending = true → ∃ t, step s = .next t ∧
      (s.op = 0#1 → ∀ c, decodeCell s.input = .ok c → t.hostReadResponse = .next (some (.cell c)) ∧
        t.hostReadRegisters = .next ⟨0#3, none, some c.circ, some c.cmd, some c.body.length⟩) ∧
      (s.op = 0#1 → decodeCell s.input = .error .incompleteData →
        t.hostReadResponse = .next (some (.error .incompleteData)) ∧ t.hostReadRegisters = .next ⟨1#3, none, none, none, none⟩) ∧
      (s.op = 0#1 → decodeCell s.input = .error .truncatedBody →
        t.hostReadResponse = .next (some (.error .truncatedBody)) ∧ t.hostReadRegisters = .next ⟨2#3, none, none, none, none⟩) ∧
      (s.op = 1#1 → ∀ W, encodeCell s.reqCircId s.reqCmd s.input = .ok W → t.hostReadResponse = .next (some (.frame W)) ∧
        t.hostReadRegisters = .next ⟨0#3, none, none, none, some W.length⟩) ∧
      (s.op = 1#1 → encodeCell s.reqCircId s.reqCmd s.input = .error .bodyTooLong →
        t.hostReadResponse = .next (some (.error .bodyTooLong)) ∧ t.hostReadRegisters = .next ⟨3#3, none, none, none, none⟩) ∧
      (s.op = 1#1 → encodeCell s.reqCircId s.reqCmd s.input = .error (.circuitIdPolicyViolation .forbidden) →
        t.hostReadResponse = .next (some (.error (.circuitIdPolicyViolation .forbidden))) ∧
        t.hostReadRegisters = .next ⟨4#3, some 0#1, none, none, none⟩) ∧
      (s.op = 1#1 → encodeCell s.reqCircId s.reqCmd s.input = .error (.circuitIdPolicyViolation .required) →
        t.hostReadResponse = .next (some (.error (.circuitIdPolicyViolation .required))) ∧
        t.hostReadRegisters = .next ⟨4#3, some 1#1, none, none, none⟩) ∧
      (∀ a, a < 2 ^ Config.lenW → ¬ (t.status = 0#3 ∧ a < t.outLen) → t.hostReadObuf a = .fault (.unspecifiedByte a)) ∧
      (t.status = 0#3 → ∀ a, a < t.outLen → ∃ b, t.hostReadObuf a = .next b ∧ t.output[a]? = some b)) ∧
    (∀ W t, s.presentDecode W = .next t → t.pending = true ∧ t.response = s.response ∧ t.responseView = s.responseView ∧
      ∀ a, t.obufView a = s.obufView a) ∧
    ∀ c m W t, s.presentEncode c m W = .next t → t.pending = true ∧ t.response = s.response ∧ t.responseView = s.responseView ∧
      ∀ a, t.obufView a = s.obufView a
end

