-- ==== Sys2Proof/Laws/Mem.lean ====
section
/-! SUPPORT. The buffers: what a read gives after a write, and that every operation keeps the canonical form. -/

namespace Sys2Proof.Machine

@[simp] theorem Mem.read_nil (a : Nat) : Mem.read [] a = none := rfl

@[simp] theorem Mem.read_cons (x : Host.Cell) (m : Mem) (a : Nat) :
    Mem.read (x :: m) a = if a = x.1 then some x.2 else m.read a := by
  obtain ⟨k, b⟩ := x
  by_cases h : a = k
  · simp [Mem.read, List.lookup, h]
  · simp [Mem.read, List.lookup, h, show (a == k) = false from beq_false_of_ne h]

theorem Mem.read_append (m n : Mem) (a : Nat) : Mem.read (m ++ n) a = (m.read a).or (n.read a) := by
  induction m with
  | nil => simp
  | cons x m ih => by_cases h : a = x.1 <;> simp [h, ih]

theorem Mem.read_below (m : Mem) (b a : Nat) : (m.below b).read a = if a < b then m.read a else none := by
  induction m with
  | nil => simp [Mem.below]
  | cons x m ih =>
    unfold Mem.below at ih ⊢
    by_cases hx : x.1 < b <;> by_cases ha : a = x.1 <;> simp_all

theorem Mem.read_atOrAbove (m : Mem) (b a : Nat) : (m.atOrAbove b).read a = if b ≤ a then m.read a else none := by
  induction m with
  | nil => simp [Mem.atOrAbove]
  | cons x m ih =>
    unfold Mem.atOrAbove at ih ⊢
    by_cases hx : b ≤ x.1 <;> by_cases ha : a = x.1 <;> simp_all

theorem Mem.read_cellsAt (a : Nat) (v : Bytes) (b : Nat) :
    (Mem.cellsAt a v).read b = if a ≤ b then v[b - a]? else none := by
  induction v generalizing a with
  | nil => simp [Mem.cellsAt]
  | cons c v ih =>
    simp only [Mem.cellsAt, Mem.read_cons, ih]
    by_cases h : b = a
    · simp [h]
    · by_cases h2 : a ≤ b
      · obtain ⟨d, rfl⟩ : ∃ d, b = a + 1 + d := ⟨b - (a + 1), by omega⟩
        have e1 : a + 1 + d - (a + 1) = d := by omega
        have e2 : a + 1 + d - a = d + 1 := by omega
        rw [if_neg h, if_pos (by omega), if_pos h2, e1, e2, List.getElem?_cons_succ]
      · simp [h, h2, show ¬ a + 1 ≤ b by omega]

/-- A read after a write: the bytes written inside them, what was there before outside. -/
theorem Mem.read_writeBytes (m : Mem) (a : Nat) (v : Bytes) (b : Nat) :
    (m.writeBytes a v).read b = if a ≤ b ∧ b < a + v.length then v[b - a]? else m.read b := by
  simp only [Mem.writeBytes, Mem.read_append, Mem.read_below, Mem.read_cellsAt, Mem.read_atOrAbove]
  by_cases h1 : b < a
  · simp [h1, show ¬ a ≤ b by omega, show ¬ a + v.length ≤ b by omega]
  · by_cases h2 : b < a + v.length
    · simp [show a ≤ b by omega, h1, h2, show ¬ a + v.length ≤ b by omega]
    · simp [show a ≤ b by omega, h1, h2, show a + v.length ≤ b by omega, List.getElem?_eq_none (show v.length ≤ b - a by omega)]

/-! ## The entries of a buffer, by address -/

theorem Mem.addr_of_mem_cellsAt {a : Nat} {v : Bytes} {x : Host.Cell} (h : x ∈ Mem.cellsAt a v) :
    a ≤ x.1 ∧ x.1 < a + v.length := by
  induction v generalizing a with
  | nil => simp [Mem.cellsAt] at h
  | cons c v ih =>
    simp only [Mem.cellsAt, List.mem_cons] at h
    rcases h with rfl | h
    · simp
    · have := ih h
      simp only [List.length_cons]
      omega

theorem Mem.mem_below {m : Mem} {b : Nat} {x : Host.Cell} : x ∈ m.below b ↔ x ∈ m ∧ x.1 < b := by
  simp [Mem.below]

theorem Mem.mem_atOrAbove {m : Mem} {b : Nat} {x : Host.Cell} : x ∈ m.atOrAbove b ↔ x ∈ m ∧ b ≤ x.1 := by
  simp [Mem.atOrAbove]

theorem Mem.addr_lt_writeBytes {m : Mem} {a : Nat} {v : Bytes} {n : Nat} (hm : ∀ x ∈ m, x.1 < n) (hv : a + v.length ≤ n) :
    ∀ x ∈ m.writeBytes a v, x.1 < n := by
  intro x hx
  simp only [Mem.writeBytes, List.mem_append] at hx
  rcases hx with hx | hx | hx
  · exact hm x (Mem.mem_below.1 hx).1
  · have := Mem.addr_of_mem_cellsAt hx; omega
  · exact hm x (Mem.mem_atOrAbove.1 hx).1

/-! ## The canonical form -/

theorem Mem.wf_cellsAt (a : Nat) (v : Bytes) : (Mem.cellsAt a v).wf := by
  induction v generalizing a with
  | nil => exact List.Pairwise.nil
  | cons c v ih =>
    refine List.Pairwise.cons (fun x hx => ?_) (ih (a + 1))
    have := Mem.addr_of_mem_cellsAt hx
    simp only
    omega

theorem Mem.wf_below {m : Mem} (h : m.wf) (a : Nat) : (m.below a).wf := List.Pairwise.filter _ h

theorem Mem.wf_atOrAbove {m : Mem} (h : m.wf) (a : Nat) : (m.atOrAbove a).wf := List.Pairwise.filter _ h

/-- Every write keeps the canonical form. -/
theorem Mem.wf_writeBytes {m : Mem} (h : m.wf) (a : Nat) (v : Bytes) : (m.writeBytes a v).wf := by
  refine List.pairwise_append.2 ⟨Mem.wf_below h a, List.pairwise_append.2 ⟨Mem.wf_cellsAt a v, Mem.wf_atOrAbove h _, ?_⟩, ?_⟩
  · intro x hx y hy
    have h1 := Mem.addr_of_mem_cellsAt hx
    have h2 := (Mem.mem_atOrAbove.1 hy).2
    omega
  · intro x hx y hy
    have h1 := (Mem.mem_below.1 hx).2
    rcases List.mem_append.1 hy with hy | hy
    · have := Mem.addr_of_mem_cellsAt hy; omega
    · have := (Mem.mem_atOrAbove.1 hy).2; omega

end Sys2Proof.Machine
end

