-- ==== Sys2Proof/Laws/State.lean ====
section
/-! SUPPORT. One lemma per field and update of the shared operations of Machine/Ops.lean and Machine/HostPort.lean, true by rfl, so
that no proof unfolds a record update. -/

namespace Sys2Proof.Machine

/-! ## respond -/

@[simp] theorem State.respond_op (s : State) (st : BitVec 3) : (s.respond st).op = s.op := rfl
@[simp] theorem State.respond_reqCircId (s : State) (st : BitVec 3) : (s.respond st).reqCircId = s.reqCircId := rfl
@[simp] theorem State.respond_reqCmd (s : State) (st : BitVec 3) : (s.respond st).reqCmd = s.reqCmd := rfl
@[simp] theorem State.respond_inLen (s : State) (st : BitVec 3) : (s.respond st).inLen = s.inLen := rfl
@[simp] theorem State.respond_ibuf (s : State) (st : BitVec 3) : (s.respond st).ibuf = s.ibuf := rfl
@[simp] theorem State.respond_status (s : State) (st : BitVec 3) : (s.respond st).status = st := rfl
@[simp] theorem State.respond_reason (s : State) (st : BitVec 3) : (s.respond st).reason = Config.freeReason s.draws := rfl
@[simp] theorem State.respond_rspCircId (s : State) (st : BitVec 3) : (s.respond st).rspCircId = Config.freeRspCircId s.draws := rfl
@[simp] theorem State.respond_rspCmd (s : State) (st : BitVec 3) : (s.respond st).rspCmd = Config.freeRspCmd s.draws := rfl
@[simp] theorem State.respond_outLen (s : State) (st : BitVec 3) : (s.respond st).outLen = Config.freeOutLen s.draws % 2 ^ Config.lenW := rfl
@[simp] theorem State.respond_obuf (s : State) (st : BitVec 3) : (s.respond st).obuf = [] := rfl
@[simp] theorem State.respond_linkVersion (s : State) (st : BitVec 3) : (s.respond st).linkVersion = s.linkVersion := rfl
@[simp] theorem State.respond_pending (s : State) (st : BitVec 3) : (s.respond st).pending = false := rfl
@[simp] theorem State.respond_stage (s : State) (st : BitVec 3) : (s.respond st).stage = .idle := rfl
@[simp] theorem State.respond_circ (s : State) (st : BitVec 3) : (s.respond st).circ = 0 := rfl
@[simp] theorem State.respond_cmd (s : State) (st : BitVec 3) : (s.respond st).cmd = 0 := rfl
@[simp] theorem State.respond_draws (s : State) (st : BitVec 3) : (s.respond st).draws = s.draws + 1 := rfl
@[simp] theorem State.respond_lastOp (s : State) (st : BitVec 3) : (s.respond st).lastOp = some s.op := rfl
@[simp] theorem State.respond_resets (s : State) (st : BitVec 3) : (s.respond st).resets = s.resets := rfl

/-! ## raise -/

@[simp] theorem State.raise_op (s : State) (k : ErrorKind) : (s.raise k).op = s.op := rfl
@[simp] theorem State.raise_reqCircId (s : State) (k : ErrorKind) : (s.raise k).reqCircId = s.reqCircId := rfl
@[simp] theorem State.raise_reqCmd (s : State) (k : ErrorKind) : (s.raise k).reqCmd = s.reqCmd := rfl
@[simp] theorem State.raise_inLen (s : State) (k : ErrorKind) : (s.raise k).inLen = s.inLen := rfl
@[simp] theorem State.raise_ibuf (s : State) (k : ErrorKind) : (s.raise k).ibuf = s.ibuf := rfl
@[simp] theorem State.raise_status (s : State) (k : ErrorKind) : (s.raise k).status = statusCode k := rfl
@[simp] theorem State.raise_reason (s : State) (k : ErrorKind) : (s.raise k).reason = reasonBit (Config.freeReason s.draws) k := rfl
@[simp] theorem State.raise_rspCircId (s : State) (k : ErrorKind) : (s.raise k).rspCircId = Config.freeRspCircId s.draws := rfl
@[simp] theorem State.raise_rspCmd (s : State) (k : ErrorKind) : (s.raise k).rspCmd = Config.freeRspCmd s.draws := rfl
@[simp] theorem State.raise_outLen (s : State) (k : ErrorKind) : (s.raise k).outLen = Config.freeOutLen s.draws % 2 ^ Config.lenW := rfl
@[simp] theorem State.raise_obuf (s : State) (k : ErrorKind) : (s.raise k).obuf = [] := rfl
@[simp] theorem State.raise_linkVersion (s : State) (k : ErrorKind) : (s.raise k).linkVersion = s.linkVersion := rfl
@[simp] theorem State.raise_pending (s : State) (k : ErrorKind) : (s.raise k).pending = false := rfl
@[simp] theorem State.raise_stage (s : State) (k : ErrorKind) : (s.raise k).stage = .idle := rfl
@[simp] theorem State.raise_circ (s : State) (k : ErrorKind) : (s.raise k).circ = 0 := rfl
@[simp] theorem State.raise_cmd (s : State) (k : ErrorKind) : (s.raise k).cmd = 0 := rfl
@[simp] theorem State.raise_draws (s : State) (k : ErrorKind) : (s.raise k).draws = s.draws + 1 := rfl
@[simp] theorem State.raise_lastOp (s : State) (k : ErrorKind) : (s.raise k).lastOp = some s.op := rfl
@[simp] theorem State.raise_resets (s : State) (k : ErrorKind) : (s.raise k).resets = s.resets := rfl

/-! ## answerCell -/

@[simp] theorem State.answerCell_op (s : State) (c : ChannelCell) : (s.answerCell c).op = s.op := rfl
@[simp] theorem State.answerCell_reqCircId (s : State) (c : ChannelCell) : (s.answerCell c).reqCircId = s.reqCircId := rfl
@[simp] theorem State.answerCell_reqCmd (s : State) (c : ChannelCell) : (s.answerCell c).reqCmd = s.reqCmd := rfl
@[simp] theorem State.answerCell_inLen (s : State) (c : ChannelCell) : (s.answerCell c).inLen = s.inLen := rfl
@[simp] theorem State.answerCell_ibuf (s : State) (c : ChannelCell) : (s.answerCell c).ibuf = s.ibuf := rfl
@[simp] theorem State.answerCell_status (s : State) (c : ChannelCell) : (s.answerCell c).status = 0 := rfl
@[simp] theorem State.answerCell_reason (s : State) (c : ChannelCell) : (s.answerCell c).reason = Config.freeReason s.draws := rfl
@[simp] theorem State.answerCell_rspCircId (s : State) (c : ChannelCell) : (s.answerCell c).rspCircId = c.circ := rfl
@[simp] theorem State.answerCell_rspCmd (s : State) (c : ChannelCell) : (s.answerCell c).rspCmd = c.cmd := rfl
@[simp] theorem State.answerCell_outLen (s : State) (c : ChannelCell) : (s.answerCell c).outLen = c.body.length := rfl
@[simp] theorem State.answerCell_obuf (s : State) (c : ChannelCell) : (s.answerCell c).obuf = Mem.cellsAt 0 c.body := rfl
@[simp] theorem State.answerCell_linkVersion (s : State) (c : ChannelCell) : (s.answerCell c).linkVersion = s.linkVersion := rfl
@[simp] theorem State.answerCell_pending (s : State) (c : ChannelCell) : (s.answerCell c).pending = false := rfl
@[simp] theorem State.answerCell_stage (s : State) (c : ChannelCell) : (s.answerCell c).stage = .idle := rfl
@[simp] theorem State.answerCell_circ (s : State) (c : ChannelCell) : (s.answerCell c).circ = 0 := rfl
@[simp] theorem State.answerCell_cmd (s : State) (c : ChannelCell) : (s.answerCell c).cmd = 0 := rfl
@[simp] theorem State.answerCell_draws (s : State) (c : ChannelCell) : (s.answerCell c).draws = s.draws + 1 := rfl
@[simp] theorem State.answerCell_lastOp (s : State) (c : ChannelCell) : (s.answerCell c).lastOp = some s.op := rfl
@[simp] theorem State.answerCell_resets (s : State) (c : ChannelCell) : (s.answerCell c).resets = s.resets := rfl

/-! ## answerFrame -/

@[simp] theorem State.answerFrame_op (s : State) (W : Bytes) : (s.answerFrame W).op = s.op := rfl
@[simp] theorem State.answerFrame_reqCircId (s : State) (W : Bytes) : (s.answerFrame W).reqCircId = s.reqCircId := rfl
@[simp] theorem State.answerFrame_reqCmd (s : State) (W : Bytes) : (s.answerFrame W).reqCmd = s.reqCmd := rfl
@[simp] theorem State.answerFrame_inLen (s : State) (W : Bytes) : (s.answerFrame W).inLen = s.inLen := rfl
@[simp] theorem State.answerFrame_ibuf (s : State) (W : Bytes) : (s.answerFrame W).ibuf = s.ibuf := rfl
@[simp] theorem State.answerFrame_status (s : State) (W : Bytes) : (s.answerFrame W).status = 0 := rfl
@[simp] theorem State.answerFrame_reason (s : State) (W : Bytes) : (s.answerFrame W).reason = Config.freeReason s.draws := rfl
@[simp] theorem State.answerFrame_rspCircId (s : State) (W : Bytes) : (s.answerFrame W).rspCircId = Config.freeRspCircId s.draws := rfl
@[simp] theorem State.answerFrame_rspCmd (s : State) (W : Bytes) : (s.answerFrame W).rspCmd = Config.freeRspCmd s.draws := rfl
@[simp] theorem State.answerFrame_outLen (s : State) (W : Bytes) : (s.answerFrame W).outLen = W.length := rfl
@[simp] theorem State.answerFrame_obuf (s : State) (W : Bytes) : (s.answerFrame W).obuf = Mem.cellsAt 0 W := rfl
@[simp] theorem State.answerFrame_linkVersion (s : State) (W : Bytes) : (s.answerFrame W).linkVersion = s.linkVersion := rfl
@[simp] theorem State.answerFrame_pending (s : State) (W : Bytes) : (s.answerFrame W).pending = false := rfl
@[simp] theorem State.answerFrame_stage (s : State) (W : Bytes) : (s.answerFrame W).stage = .idle := rfl
@[simp] theorem State.answerFrame_circ (s : State) (W : Bytes) : (s.answerFrame W).circ = 0 := rfl
@[simp] theorem State.answerFrame_cmd (s : State) (W : Bytes) : (s.answerFrame W).cmd = 0 := rfl
@[simp] theorem State.answerFrame_draws (s : State) (W : Bytes) : (s.answerFrame W).draws = s.draws + 1 := rfl
@[simp] theorem State.answerFrame_lastOp (s : State) (W : Bytes) : (s.answerFrame W).lastOp = some s.op := rfl
@[simp] theorem State.answerFrame_resets (s : State) (W : Bytes) : (s.answerFrame W).resets = s.resets := rfl

/-! ## answerFrameTail -/

@[simp] theorem State.answerFrameTail_op (s : State) (T : Bytes) : (s.answerFrameTail T).op = s.op := rfl
@[simp] theorem State.answerFrameTail_reqCircId (s : State) (T : Bytes) : (s.answerFrameTail T).reqCircId = s.reqCircId := rfl
@[simp] theorem State.answerFrameTail_reqCmd (s : State) (T : Bytes) : (s.answerFrameTail T).reqCmd = s.reqCmd := rfl
@[simp] theorem State.answerFrameTail_inLen (s : State) (T : Bytes) : (s.answerFrameTail T).inLen = s.inLen := rfl
@[simp] theorem State.answerFrameTail_ibuf (s : State) (T : Bytes) : (s.answerFrameTail T).ibuf = s.ibuf := rfl
@[simp] theorem State.answerFrameTail_status (s : State) (T : Bytes) : (s.answerFrameTail T).status = 0 := rfl
@[simp] theorem State.answerFrameTail_reason (s : State) (T : Bytes) : (s.answerFrameTail T).reason = Config.freeReason s.draws := rfl
@[simp] theorem State.answerFrameTail_rspCircId (s : State) (T : Bytes) : (s.answerFrameTail T).rspCircId = Config.freeRspCircId s.draws := rfl
@[simp] theorem State.answerFrameTail_rspCmd (s : State) (T : Bytes) : (s.answerFrameTail T).rspCmd = Config.freeRspCmd s.draws := rfl
@[simp] theorem State.answerFrameTail_outLen (s : State) (T : Bytes) : (s.answerFrameTail T).outLen = Config.hdrLen + T.length := rfl
@[simp] theorem State.answerFrameTail_obuf (s : State) (T : Bytes) : (s.answerFrameTail T).obuf = (s.obuf.writeBytes Config.hdrLen T).below (Config.hdrLen + T.length) := rfl
@[simp] theorem State.answerFrameTail_linkVersion (s : State) (T : Bytes) : (s.answerFrameTail T).linkVersion = s.linkVersion := rfl
@[simp] theorem State.answerFrameTail_pending (s : State) (T : Bytes) : (s.answerFrameTail T).pending = false := rfl
@[simp] theorem State.answerFrameTail_stage (s : State) (T : Bytes) : (s.answerFrameTail T).stage = .idle := rfl
@[simp] theorem State.answerFrameTail_circ (s : State) (T : Bytes) : (s.answerFrameTail T).circ = 0 := rfl
@[simp] theorem State.answerFrameTail_cmd (s : State) (T : Bytes) : (s.answerFrameTail T).cmd = 0 := rfl
@[simp] theorem State.answerFrameTail_draws (s : State) (T : Bytes) : (s.answerFrameTail T).draws = s.draws + 1 := rfl
@[simp] theorem State.answerFrameTail_lastOp (s : State) (T : Bytes) : (s.answerFrameTail T).lastOp = some s.op := rfl
@[simp] theorem State.answerFrameTail_resets (s : State) (T : Bytes) : (s.answerFrameTail T).resets = s.resets := rfl

/-! ## loadInput -/

@[simp] theorem State.loadInput_op (s : State) (W : Bytes) : (s.loadInput W).op = s.op := rfl
@[simp] theorem State.loadInput_reqCircId (s : State) (W : Bytes) : (s.loadInput W).reqCircId = s.reqCircId := rfl
@[simp] theorem State.loadInput_reqCmd (s : State) (W : Bytes) : (s.loadInput W).reqCmd = s.reqCmd := rfl
@[simp] theorem State.loadInput_inLen (s : State) (W : Bytes) : (s.loadInput W).inLen = W.length := rfl
@[simp] theorem State.loadInput_ibuf (s : State) (W : Bytes) : (s.loadInput W).ibuf = s.ibuf.writeBytes 0 W := rfl
@[simp] theorem State.loadInput_status (s : State) (W : Bytes) : (s.loadInput W).status = s.status := rfl
@[simp] theorem State.loadInput_reason (s : State) (W : Bytes) : (s.loadInput W).reason = s.reason := rfl
@[simp] theorem State.loadInput_rspCircId (s : State) (W : Bytes) : (s.loadInput W).rspCircId = s.rspCircId := rfl
@[simp] theorem State.loadInput_rspCmd (s : State) (W : Bytes) : (s.loadInput W).rspCmd = s.rspCmd := rfl
@[simp] theorem State.loadInput_outLen (s : State) (W : Bytes) : (s.loadInput W).outLen = s.outLen := rfl
@[simp] theorem State.loadInput_obuf (s : State) (W : Bytes) : (s.loadInput W).obuf = s.obuf := rfl
@[simp] theorem State.loadInput_linkVersion (s : State) (W : Bytes) : (s.loadInput W).linkVersion = s.linkVersion := rfl
@[simp] theorem State.loadInput_pending (s : State) (W : Bytes) : (s.loadInput W).pending = s.pending := rfl
@[simp] theorem State.loadInput_stage (s : State) (W : Bytes) : (s.loadInput W).stage = s.stage := rfl
@[simp] theorem State.loadInput_circ (s : State) (W : Bytes) : (s.loadInput W).circ = s.circ := rfl
@[simp] theorem State.loadInput_cmd (s : State) (W : Bytes) : (s.loadInput W).cmd = s.cmd := rfl
@[simp] theorem State.loadInput_draws (s : State) (W : Bytes) : (s.loadInput W).draws = s.draws := rfl
@[simp] theorem State.loadInput_lastOp (s : State) (W : Bytes) : (s.loadInput W).lastOp = s.lastOp := rfl
@[simp] theorem State.loadInput_resets (s : State) (W : Bytes) : (s.loadInput W).resets = s.resets := rfl

end Sys2Proof.Machine
end

