-- ==== Sys2Proof/Laws/Ops.lean ====
section
/-! SUPPORT. What each shared operation can do, said once: the input sequence of a request, and the four ways a response is given. -/

namespace Sys2Proof.Machine

/-! ## The constants of R6, and the fields by their offsets -/

/-- "The arithmetic between them was checked" (R6). -/
theorem Config.lengths_agree :
    Config.hdrLen = Config.circIdLen + Config.cmdLen ∧ Config.varHdrLen = Config.hdrLen + Config.varPrefixLen ∧
    Config.fixedCellLen = Config.hdrLen + Config.cellDataLen ∧ Config.maxVarBody = 2 ^ (8 * Config.varPrefixLen) - 1 := by decide

theorem circField_eq (W : Bytes) : circField W = be32 (slice W 0 4) := rfl

theorem lengthField_eq (W : Bytes) : lengthField W = be16 (slice W 5 7) := rfl

theorem rawPayload_eq (W : Bytes) : rawPayload W = slice W 5 514 := rfl

theorem varPayload_eq (W : Bytes) (n : Nat) : varPayload W n = slice W 7 (7 + n) := rfl

theorem toBe16_eq (n : Nat) : toBe16 n = [BitVec.ofNat 8 (n / 256), BitVec.ofNat 8 n] := by
  simp [toBe16, Config.varPrefixLen, toBe]

theorem toBe16_length (n : Nat) : (toBe16 n).length = 2 := rfl

theorem toBe32_length (c : CircId) : (toBe32 c).length = 4 := rfl

/-- What the header parser does, by the length of the input. -/
theorem hdrParse_eq (W : Bytes) :
    hdrParse W = if h : W.length < 5 then .error .incompleteData else .ok (circField W, W[4]) := rfl

/-! ## LEN_W -/

theorem Config.lenW_ge : 17 ≤ Config.lenW := by unfold Config.lenW; omega

/-- Every length of a response fits its register: 65542 is below 2^17 (R44). -/
theorem Config.two_pow_lenW_ge : 131072 ≤ 2 ^ Config.lenW :=
  calc 131072 = 2 ^ 17 := by norm_num
    _ ≤ 2 ^ Config.lenW := Nat.pow_le_pow_right (by norm_num) Config.lenW_ge

/-! ## Reading -/

@[simp] theorem State.input_length (s : State) : s.input.length = s.inLen := by simp [State.input]

@[simp] theorem State.output_length (s : State) : s.output.length = s.outLen := by simp [State.output]

theorem State.input_getElem (s : State) (i : Nat) (h : i < s.input.length) : s.input[i] = s.ibufByte i := by
  simp [State.input]

theorem State.input_getElem? (s : State) (i : Nat) (h : i < s.inLen) : s.input[i]? = some (s.ibufByte i) := by
  simp [State.input, h]

/-- The input depends on the request side only. -/
theorem State.input_congr {s t : State} (hl : t.inLen = s.inLen) (hb : t.ibuf = s.ibuf) (hr : t.resets = s.resets) :
    t.input = s.input := by
  simp [State.input, State.ibufByte, hl, hb, hr]

/-- An output whose defined bytes are those of a sequence is that sequence. -/
theorem State.output_eq {s : State} {v : Bytes} (hl : s.outLen = v.length)
    (hv : ∀ a (_ : a < v.length), s.obuf.read a = some v[a]) : s.output = v := by
  apply List.ext_getElem
  · simp [hl]
  · intro i h1 h2
    simp [State.output, State.obufByte, hv i h2]

theorem State.output_cellsAt {s : State} {v : Bytes} (hl : s.outLen = v.length) (ho : s.obuf = Mem.cellsAt 0 v) :
    s.output = v := by
  refine State.output_eq hl fun a ha => ?_
  simp [ho, Mem.read_cellsAt, ha]

/-! ## Answering -/

theorem SameRequestSide.refl (s : State) : SameRequestSide s s := ⟨rfl, rfl, rfl, rfl, rfl, rfl, rfl⟩

theorem State.respond_finished (s : State) (st : BitVec 3) : Finished s (s.respond st) :=
  ⟨SameRequestSide.refl s, rfl, rfl, rfl, rfl, rfl, rfl⟩

/-- `raise` gives an error response and does nothing else. -/
theorem State.raise_gaveError (s : State) (k : ErrorKind) : GaveError s (s.raise k) k := by
  refine ⟨s.respond_finished (statusCode k), rfl, fun r hr => ?_, fun a => by simp⟩
  subst hr
  rfl

/-- `answerCell` gives a DECODE response and does nothing else. -/
theorem State.answerCell_gaveCell (s : State) (c : ChannelCell) : GaveCell s (s.answerCell c) c := by
  refine ⟨s.respond_finished 0, rfl, rfl, rfl, rfl, State.output_cellsAt rfl rfl, fun a ha => ?_⟩
  simp [Mem.read_cellsAt, ha]

/-- `answerFrame` gives an ENCODE response and does nothing else. -/
theorem State.answerFrame_gaveFrame (s : State) (W : Bytes) : GaveFrame s (s.answerFrame W) W := by
  refine ⟨s.respond_finished 0, rfl, rfl, State.output_cellsAt rfl rfl, fun a ha => ?_⟩
  simp [Mem.read_cellsAt, ha]

/-- The OBUF of `answerFrameTail`: its first five bytes as they were, then the tail, then nothing. -/
theorem State.answerFrameTail_read (s : State) (T : Bytes) (a : Nat) :
    (s.answerFrameTail T).obuf.read a =
      if a < 5 then s.obuf.read a else if a < 5 + T.length then T[a - 5]? else none := by
  simp only [State.answerFrameTail_obuf, Mem.read_below, Mem.read_writeBytes, Config.hdrLen]
  by_cases h1 : a < 5
  · simp [h1, show a < 5 + T.length by omega, show ¬ 5 ≤ a by omega]
  · by_cases h2 : a < 5 + T.length
    · simp [h1, h2, show 5 ≤ a by omega]
    · simp [h1, h2]

/-- Behind a header that is in place, `answerFrameTail` gives the whole frame. -/
theorem State.answerFrameTail_gaveFrame (s : State) {H : Bytes} (T : Bytes) (hH : H.length = 5)
    (ho : ∀ a (_ : a < H.length), s.obuf.read a = some H[a]) : GaveFrame s (s.answerFrameTail T) (H ++ T) := by
  have hl : (s.answerFrameTail T).outLen = (H ++ T).length := by simp [Config.hdrLen, hH]
  refine ⟨s.respond_finished 0, rfl, hl, State.output_eq hl fun a ha => ?_, fun a ha => ?_⟩
  · rw [State.answerFrameTail_read]
    simp only [List.length_append, hH] at ha
    by_cases h1 : a < 5
    · simp [h1, ho a (by omega), List.getElem_append_left (show a < H.length by omega)]
    · rw [if_neg h1, if_pos ha, List.getElem_append_right (by omega)]
      simp [hH]
  · rw [State.answerFrameTail_read]
    simp only [List.length_append, hH] at ha
    simp [show ¬ a < 5 by omega, show ¬ a < 5 + T.length by omega]

/-! ## The response a host reads -/

theorem State.raise_response (s : State) (k : ErrorKind) : (s.raise k).response = some (.error k) := by
  rcases k with _ | _ | _ | r <;> (try rfl)
  cases r <;> rfl

theorem State.answerCell_response (s : State) (c : ChannelCell) (h : s.op = 0#1) :
    (s.answerCell c).response = some (.cell c) := by
  have := (s.answerCell_gaveCell c).2.2.2.2.2.1
  simp [State.response, h, this]

theorem State.answerFrame_response (s : State) (W : Bytes) (h : s.op = 1#1) :
    (s.answerFrame W).response = some (.frame W) := by
  have := (s.answerFrame_gaveFrame W).2.2.2.1
  simp [State.response, h, this]

/-- An idle instance with no request presented has no transaction in progress. -/
theorem State.not_inProgress {s : State} (hs : s.stage = .idle) (hp : s.pending = false) : ¬ s.inProgress := by
  simp [hs, hp]

/-- Between transactions the host reads, inside one it does not. -/
theorem State.hostRead_idle {α : Type} {s : State} (h : ¬ s.inProgress) (v : Host.Outcome α Fault Refusal) : s.hostRead v = v :=
  if_neg h

theorem State.hostRead_busy {α : Type} {s : State} (h : s.inProgress) (v : Host.Outcome α Fault Refusal) :
    s.hostRead v = .refused .transactionInProgress :=
  if_pos h

/-- After a transaction an OBUF byte a rule defines is read, any other byte of the address space is not. -/
theorem State.hostReadObuf_eq {s : State} {a : Nat} {o : BitVec 1} (ha : a < 2 ^ Config.lenW) (hs : ¬ s.inProgress)
    (ho : s.lastOp = some o) :
    s.hostReadObuf a = match s.obuf.read a with | some b => .next b | none => .fault (.unspecifiedByte a) := by
  rw [State.hostReadObuf, if_pos ha, State.hostRead_idle hs, State.obufView, ho]
  cases s.obuf.read a <;> simp

/-- Before the first transaction since reset every OBUF byte of the address space is read. -/
theorem State.hostReadObuf_first {s : State} {a : Nat} (ha : a < 2 ^ Config.lenW) (hs : ¬ s.inProgress) (ho : s.lastOp = none) :
    s.hostReadObuf a = .next (s.obufByte a) := by
  rw [State.hostReadObuf, if_pos ha, State.hostRead_idle hs, State.obufView, ho]

/-- Of an error response the host reads `STATUS`, and `REASON` for a policy violation (R30, R136). -/
theorem State.raise_view (s : State) (k : ErrorKind) :
    (s.raise k).responseView =
      ⟨statusCode k, if statusCode k = 4#3 then some (reasonBit (Config.freeReason s.draws) k) else none, none, none, none⟩ := by
  cases k <;> rfl

/-- Of a successful DECODE the host reads every register but `REASON` (R30). -/
theorem State.answerCell_view (s : State) (c : ChannelCell) (h : s.op = 0#1) :
    (s.answerCell c).responseView = ⟨0#3, none, some c.circ, some c.cmd, some c.body.length⟩ := by
  simp [State.responseView, h]

/-- Of a successful ENCODE the host reads `STATUS` and `OUT_LEN` (R30). -/
theorem State.answerFrame_view (s : State) (W : Bytes) (h : s.op = 1#1) :
    (s.answerFrame W).responseView = ⟨0#3, none, none, none, some W.length⟩ := by
  simp [State.responseView, h]

/-! ## The request a host presents -/

/-- What the host loads is the input, whatever else is written to the request registers. -/
theorem State.loadInput_input (s : State) (W : Bytes) (o : BitVec 1) (c : CircId) (m : Command) (p : Bool) :
    ({ s.loadInput W with op := o, reqCircId := c, reqCmd := m, pending := p } : State).input = W := by
  apply List.ext_getElem
  · simp
  · intro i h1 h2
    rw [State.input_getElem]
    simp [State.ibufByte, Mem.read_writeBytes, h2]

/-- A request is admitted exactly between transactions and if IN_LEN can count it. -/
theorem State.admits_ok {s : State} {n : Nat} : s.admits n = .ok () ↔ ¬ s.inProgress ∧ n < 2 ^ Config.lenW := by
  unfold State.admits
  split
  · simp [*]
  · split <;> simp [*]

/-- Inside a transaction no request is admitted. -/
theorem State.admits_busy {s : State} (h : s.inProgress) (n : Nat) : s.admits n = .error .transactionInProgress := if_pos h

/-- Between transactions a request longer than IN_LEN can count is not. -/
theorem State.admits_long {s : State} {n : Nat} (h : ¬ s.inProgress) (hn : 2 ^ Config.lenW ≤ n) :
    s.admits n = .error (.tooLongForLenW n) := by
  rw [State.admits, if_neg h, if_neg (by omega)]

/-- A request admitted is put in place and pending. -/
theorem State.presentDecode_ok {s : State} {W : Bytes} (h : s.admits W.length = .ok ()) :
    s.presentDecode W = .next { s.loadInput W with op := 0, pending := true } := by
  rw [State.presentDecode, h]

theorem State.presentEncode_ok {s : State} {W : Bytes} (h : s.admits W.length = .ok ()) (c : CircId) (m : Command) :
    s.presentEncode c m W = .next { s.loadInput W with op := 1, reqCircId := c, reqCmd := m, pending := true } := by
  rw [State.presentEncode, h]

end Sys2Proof.Machine
end

