-- ==== Sys2Proof/Laws/Step.lean ====
section
/-! SUPPORT. What a step can do, said once: it runs the instruction fetched; and the instruction placed is the one fetched. -/

namespace Sys2Proof.Machine

-- the kernel checks below are done one at a time, so that they do not queue up as threads
set_option Elab.async false

/-- A step is exec of the instruction fetched. -/
theorem step_of_fetch {s : State} {i : Instr} (h : s.fetch = .ok (some i)) : step s = exec i s := by
  simp [step, h]

/-- If a step answers a next state, it waited or an instruction was fetched and exec gave it. -/
theorem step_next_inv {s t : State} (h : step s = .next t) :
    (s.fetch = .ok none ∧ t = s) ∨ ∃ i, s.fetch = .ok (some i) ∧ exec i s = .next t := by
  unfold step at h
  split at h
  · cases h
  · cases h
    exact .inl ⟨by assumption, rfl⟩
  · exact .inr ⟨_, by assumption, h⟩

/-- What is fetched in an instance of version 4 with a transaction in progress: what its selector decodes to. -/
theorem fetch_of_decode {s : State} {i : Instr} (hv : s.linkVersion = Config.linkVersion) (hp : s.inProgress)
    (hd : decodeSelector s.selector = .ok i) : s.fetch = .ok (some i) := by
  rw [State.fetch, if_pos hv, if_pos hp, hd]

theorem fetch_inv {s : State} {i : Instr} (h : s.fetch = .ok (some i)) :
    s.linkVersion = Config.linkVersion ∧ s.inProgress ∧ decodeSelector s.selector = .ok i := by
  unfold State.fetch at h
  split at h
  · split at h
    · refine ⟨by assumption, by assumption, ?_⟩
      split at h
      · cases h; assumption
      · cases h
    · cases h
  · cases h

/-- An idle instance of version 4 with no request presented waits. -/
theorem step_waits {s : State} (hv : s.linkVersion = Config.linkVersion) (hp : ¬ s.inProgress) : step s = .next s := by
  have h : s.fetch = .ok none := by rw [State.fetch, if_pos hv, if_neg hp]
  simp [step, h]

/-- For a request presented and to be taken whole the operation OP selects is fetched (R15). -/
theorem fetch_presented {s : State} (hv : s.linkVersion = Config.linkVersion) (hs : s.stage = .idle) (hp : s.pending = true) :
    s.fetch = .ok (some (decodeOp s.op)) :=
  fetch_of_decode hv (.inl hp) (by simp [State.selector, hs, decodeSelector])

/-- Inside a transaction the instruction of the stage and the governing command is the one stepped. -/
theorem step_at_stage {s : State} (hv : s.linkVersion = Config.linkVersion) {st : Stage} {o : BitVec 1} {m : Command} {i : Instr}
    (hs : s.stage = st) (hn : st ≠ .idle) (ho : s.op = o) (hg : s.governing = m)
    (h : decodeSelector (.uop st (selOf o m)) = .ok i) : step s = exec i s :=
  step_of_fetch (fetch_of_decode hv (.inr (by rw [hs]; exact hn)) (by subst hs ho hg; simp [State.selector, hn, h]))

/-! ## SEL[7:0] (R68) -/

/-- Of a DECODE behind D0 it is the transient HDR.PARSE wrote, of an ENCODE `REQ_CMD`. -/
theorem State.governing_decode {s : State} (ho : s.op = 0#1) (hs : s.stage ≠ .d0) : s.governing = s.cmd := by
  simp [State.governing, ho, hs]

theorem State.governing_encode {s : State} (ho : s.op = 1#1) : s.governing = s.reqCmd := by
  simp [State.governing, ho]

/-- At D0 of a DECODE of at least five bytes it is byte 4 of the input. -/
theorem State.governing_d0 {s : State} (ho : s.op = 0#1) (hs : s.stage = .d0) (hn : 5 ≤ s.inLen) : s.governing = s.ibufByte 4 := by
  simp [State.governing, State.selCommandByte, ho, hs, hn, Config.hdrLen, Config.circIdLen]

/-! ## The instruction of each stage -/

theorem decode_d0 : ∀ m : Command, decodeSelector (.uop .d0 (selOf 0 m)) = .ok .hdrParse := by decide +kernel
theorem decode_d3f : ∀ m : Command, isVar m = false → decodeSelector (.uop .d3f (selOf 0 m)) = .ok (.extFix m) := by decide +kernel
theorem decode_d3v : ∀ m : Command, isVar m = true → decodeSelector (.uop .d3v (selOf 0 m)) = .ok (.extVar m) := by decide +kernel
theorem decode_e0 : ∀ m : Command, decodeSelector (.uop .e0 (selOf 1 m)) = .ok (.valLen m) := by decide +kernel
theorem decode_e1 : ∀ m : Command, decodeSelector (.uop .e1 (selOf 1 m)) = .ok (.valCirc m) := by decide +kernel
theorem decode_e01 : ∀ m : Command, decodeSelector (.uop .e01 (selOf 1 m)) = .ok (.validate m) := by decide +kernel
theorem decode_e2 : ∀ m : Command, decodeSelector (.uop .e2 (selOf 1 m)) = .ok (.encHdr m) := by decide +kernel
theorem decode_e3f : ∀ m : Command, isVar m = false → decodeSelector (.uop .e3f (selOf 1 m)) = .ok (.encFix m) := by decide +kernel
theorem decode_e3v : ∀ m : Command, isVar m = true → decodeSelector (.uop .e3v (selOf 1 m)) = .ok (.encVar m) := by decide +kernel

end Sys2Proof.Machine
end

