-- ==== Sys2Proof/Laws/Exec.lean ====
section
/-! SUPPORT. Everything an instruction can do, said once: it answers, in one of four ways, or it passes on to the next stage. -/

namespace Sys2Proof.Machine

/-- The four ways a transaction ends, each with a length that fits OUT_LEN. -/
inductive Answered (s : State) : State → Prop where
  | error (k : ErrorKind) : Answered s (s.raise k)
  | cell (c : ChannelCell) (h : c.body.length ≤ 65542) : Answered s (s.answerCell c)
  | frame (W : Bytes) (h : W.length ≤ 65542) : Answered s (s.answerFrame W)
  | frameTail (T : Bytes) (h : 5 + T.length ≤ 65542) : Answered s (s.answerFrameTail T)

/-- The five ways a stage passes on to the next. -/
inductive Passed : Instr → State → State → Prop where
  | hdrParse {s : State} {c : CircId} {m : Command} (h : hdrParse s.input = .ok (c, m)) :
      Passed .hdrParse s { s with circ := c, cmd := m, stage := if isVar m then .d3v else .d3f }
  | valLen {s : State} {m : Command} (h : valLen m s.inLen = .ok ()) : Passed (.valLen m) s { s with stage := .e1 }
  | valCirc {s : State} {m : Command} (h : valCirc s.reqCircId m = .ok ()) : Passed (.valCirc m) s { s with stage := .e2 }
  | validate {s : State} {m : Command} (h : validate s.reqCircId m s.inLen = .ok ()) :
      Passed (.validate m) s { s with stage := .e2 }
  | encHdr {s : State} {m : Command} :
      Passed (.encHdr m) s
        { s with obuf := s.obuf.writeBytes 0 (encHdr s.reqCircId m), stage := if isVar m then .e3v else .e3f }

/-! ## Lengths -/

theorem strip_length_le (P : Bytes) : (strip P).length ≤ P.length := by
  induction P with
  | nil => simp [strip]
  | cons b P ih =>
    rw [strip]
    split
    · split <;> simp
    · rename_i h
      rw [h] at ih
      simpa using ih

theorem lengthField_le (W : Bytes) : lengthField W ≤ 65535 := by
  have h2 : (slice W 5 7).length ≤ 2 := by simp [slice]
  rw [lengthField_eq]
  match slice W 5 7, h2 with
  | [], _ => simp [be16, beNat]
  | [a], _ => simp only [be16, beNat, List.foldl_cons, List.foldl_nil]; have := a.isLt; omega
  | [a, b], _ =>
    simp only [be16, beNat, List.foldl_cons, List.foldl_nil]
    have := a.isLt
    have := b.isLt
    omega

theorem extFix_length {W body : Bytes} (h : extFix W = .ok body) : body.length ≤ 65542 := by
  unfold extFix at h
  split at h <;> cases h
  have := strip_length_le (rawPayload W)
  simp only [rawPayload, slice, Config.fixedCellLen, Config.hdrLen, List.length_take] at this ⊢
  omega

theorem extVar_length {W body : Bytes} (h : extVar W = .ok body) : body.length ≤ 65542 := by
  unfold extVar at h
  split at h
  · cases h
  split at h <;> cases h
  have := lengthField_le W
  simp only [varPayload, slice, List.length_take]
  omega

theorem encVar_length {body T : Bytes} (h : encVar body = .ok T) : 5 + T.length ≤ 65542 := by
  unfold encVar at h
  split at h <;> cases h
  simp only [Config.maxVarBody] at *
  simp only [toBe16_length, List.length_append]
  omega

theorem encFix_length {body : Bytes} (h : body.length ≤ 509) : 5 + (encFix body).length ≤ 65542 := by
  simp only [encFix, zeros, Config.cellDataLen, List.length_append, List.length_replicate]
  omega

theorem encHdr_length (c : CircId) (m : Command) : (encHdr c m).length = 5 := rfl

theorem decodeCell_length {W : Bytes} {c : ChannelCell} (h : decodeCell W = .ok c) : c.body.length ≤ 65542 := by
  unfold decodeCell at h
  split at h
  · cases h
  split at h <;> cases h
  rename_i hb
  split at hb
  · exact extVar_length hb
  · exact extFix_length hb

theorem validate_length {c : CircId} {m : Command} {n : Nat} (h : validate c m n = .ok ()) (hm : isVar m = false) : n ≤ 509 := by
  unfold validate valLen at h
  by_cases hn : n ≤ 509
  · exact hn
  · simp [hm, Config.cellDataLen, show 509 < n by omega] at h

theorem encodeCell_length {c : CircId} {m : Command} {body W : Bytes} (h : encodeCell c m body = .ok W) : W.length ≤ 65542 := by
  unfold encodeCell at h
  split at h
  · cases h
  · rename_i hv
    split at h
    · split at h <;> cases h
      have := encVar_length (by assumption)
      simp only [List.length_append, encHdr_length]
      exact this
    · cases h
      have := encFix_length (validate_length hv (by simpa using (by assumption : ¬ isVar m = true)))
      simp only [List.length_append, encHdr_length]
      exact this

theorem classDecodeFixed_length {m : Command} {W : Bytes} {c : ChannelCell} (h : classDecodeFixed m W = .ok c) :
    c.body.length ≤ 65542 := by
  unfold classDecodeFixed at h
  split at h <;> cases h
  exact extFix_length (by assumption)

theorem classDecodeVar_length {m : Command} {W : Bytes} {c : ChannelCell} (h : classDecodeVar m W = .ok c) :
    c.body.length ≤ 65542 := by
  unfold classDecodeVar at h
  split at h <;> cases h
  exact extVar_length (by assumption)

theorem classEncodeFixed_length {p : PolicyClass} {c : CircId} {m : Command} {body W : Bytes}
    (h : classEncodeFixed p c m body = .ok W) : W.length ≤ 65542 := by
  unfold classEncodeFixed at h
  split at h
  · cases h
  · split at h <;> cases h
    simp only [toBe32_length, zeros, List.length_append, List.length_cons, List.length_nil, List.length_replicate]
    omega

theorem classEncodeVar_length {p : PolicyClass} {c : CircId} {m : Command} {body W : Bytes}
    (h : classEncodeVar p c m body = .ok W) : W.length ≤ 65542 := by
  unfold classEncodeVar at h
  split at h
  · cases h
  · cases h
  · split at h <;> cases h
    simp only [toBe32_length, toBe16_length, List.length_append, List.length_cons, List.length_nil]
    omega

/-! ## Inversion -/

theorem State.transact_answered (s : State) {d : Except DecodeError ChannelCell} {e : Except EncodeError Bytes}
    (hd : ∀ c, d = .ok c → c.body.length ≤ 65542) (he : ∀ W, e = .ok W → W.length ≤ 65542) : Answered s (s.transact d e) := by
  unfold State.transact
  split
  · cases d with
    | error k => exact .error _
    | ok c => exact .cell c (hd c rfl)
  · cases e with
    | error k => exact .error _
    | ok W => exact .frame W (he W rfl)

/-- What exec gives when it gives a next state, for every instruction. -/
theorem exec_next_cases {i : Instr} {s t : State} (h : exec i s = .next t) : Answered s t ∨ Passed i s t := by
  cases i with
  | decode =>
    simp only [exec, execDecode] at h
    split at h <;> cases h
    · exact .inl (.error _)
    · exact .inl (.cell _ (decodeCell_length (by assumption)))
  | encode =>
    simp only [exec, execEncode] at h
    split at h <;> cases h
    · exact .inl (.error _)
    · exact .inl (.frame _ (encodeCell_length (by assumption)))
  | cmd0 => cases h; exact .inl (s.transact_answered (fun _ => classDecodeFixed_length) (fun _ => classEncodeFixed_length))
  | cmd1to6 m => cases h; exact .inl (s.transact_answered (fun _ => classDecodeFixed_length) (fun _ => classEncodeFixed_length))
  | cmd7 => cases h; exact .inl (s.transact_answered (fun _ => classDecodeVar_length) (fun _ => classEncodeVar_length))
  | cmd8to127 m => cases h; exact .inl (s.transact_answered (fun _ => classDecodeFixed_length) (fun _ => classEncodeFixed_length))
  | cmd128 => cases h; exact .inl (s.transact_answered (fun _ => classDecodeVar_length) (fun _ => classEncodeVar_length))
  | cmd129to255 m => cases h; exact .inl (s.transact_answered (fun _ => classDecodeVar_length) (fun _ => classEncodeVar_length))
  | hdrParse =>
    simp only [exec, execHdrParse] at h
    split at h <;> cases h
    · exact .inl (.error _)
    · exact .inr (.hdrParse (by assumption))
  | extFix m =>
    simp only [exec, execExtFix] at h
    split at h <;> cases h
    · exact .inl (.error _)
    · exact .inl (.cell _ (extFix_length (by assumption)))
  | extVar m =>
    simp only [exec, execExtVar] at h
    split at h <;> cases h
    · exact .inl (.error _)
    · exact .inl (.cell _ (extVar_length (by assumption)))
  | valLen m =>
    simp only [exec, execValLen] at h
    split at h <;> cases h
    · exact .inl (.error _)
    · exact .inr (.valLen (by assumption))
  | valCirc m =>
    simp only [exec, execValCirc] at h
    split at h <;> cases h
    · exact .inl (.error _)
    · exact .inr (.valCirc (by assumption))
  | validate m =>
    simp only [exec, execValidate] at h
    split at h <;> cases h
    · exact .inl (.error _)
    · exact .inr (.validate (by assumption))
  | encHdr m => cases h; exact .inr .encHdr
  | encVar m =>
    simp only [exec, execEncVar] at h
    split at h <;> cases h
    · exact .inl (.error _)
    · exact .inl (.frameTail _ (encVar_length (by assumption)))
  | encFix m =>
    simp only [exec, execEncFix] at h
    split at h <;> cases h
    rename_i hn
    exact .inl (.frameTail _ (encFix_length (by simpa [Config.cellDataLen] using hn)))

end Sys2Proof.Machine
end

