-- ==== Sys2Proof/Laws/PerInstr.lean ====
section
/-! SUPPORT. Per instruction: a well-formed instruction's selector lies in a row of spec/opcode_table.json. -/

namespace Sys2Proof

-- the kernel checks below are done one at a time, so that they do not queue up as threads
set_option Elab.async false

/-- Whether a row of the table holds a selector (30_encoding.md R72). -/
def Selector.inTable : Selector → Bool
  | .req _ => true
  | .cmd m => cmdRows.any (fun r => r.matches m)
  | .uop stage sel => uopRows.any (fun r => r.op.stage == stage && r.matches sel)

namespace Laws.InTable

/-- A well-formed instruction is encoded in a row of the table. -/
def Statement (i : Instr) : Prop := i.wellFormed = true → i.selector.inTable = true

theorem decode : Statement .decode := fun _ => rfl

theorem encode : Statement .encode := fun _ => rfl

theorem cmd0 : Statement .cmd0 := fun _ => rfl

theorem cmd1to6 (m : Command) : Statement (.cmd1to6 m) := by unfold Statement; revert m; decide +kernel

theorem cmd7 : Statement .cmd7 := fun _ => rfl

theorem cmd8to127 (m : Command) : Statement (.cmd8to127 m) := by unfold Statement; revert m; decide +kernel

theorem cmd128 : Statement .cmd128 := fun _ => rfl

theorem cmd129to255 (m : Command) : Statement (.cmd129to255 m) := by unfold Statement; revert m; decide +kernel

theorem hdrParse : Statement .hdrParse := fun _ => rfl

theorem extFix (m : Command) : Statement (.extFix m) := by unfold Statement; revert m; decide +kernel

theorem extVar (m : Command) : Statement (.extVar m) := by unfold Statement; revert m; decide +kernel

theorem valLen (m : Command) : Statement (.valLen m) := by unfold Statement; revert m; decide +kernel

theorem valCirc (m : Command) : Statement (.valCirc m) := by unfold Statement; revert m; decide +kernel

theorem validate (m : Command) : Statement (.validate m) := by unfold Statement; revert m; decide +kernel

theorem encHdr (m : Command) : Statement (.encHdr m) := by unfold Statement; revert m; decide +kernel

theorem encVar (m : Command) : Statement (.encVar m) := by unfold Statement; revert m; decide +kernel

theorem encFix (m : Command) : Statement (.encFix m) := by unfold Statement; revert m; decide +kernel

end Laws.InTable

end Sys2Proof
end

