-- ==== Sys2Proof/Tests/Slice0.lean ====
section
/-! SUPPORT. Tests. Expected results are those of spec/95_test_vectors.md (cited by section or line), of the rows of
spec/opcode_table.json, or of the rule named. The second half holds one witness per statement of Certificates/Slice0/Obligations.lean:
concrete values that meet its hypotheses, for each of its clauses and where clauses meet. -/

namespace Sys2Proof.Tests

-- the kernel checks below are done one at a time, so that they do not queue up as threads
set_option Elab.async false

open Sys2Proof.Machine

/-! ## Helpers -/

/-- `DECODE W` presented to an instance just after reset. -/
def decodeReq (W : Bytes) : State := { State.reset with op := 0, inLen := W.length, ibuf := Mem.cellsAt 0 W, pending := true }

/-- `ENCODE c, m, body` presented to an instance just after reset. -/
def encodeReq (c : CircId) (m : Command) (body : Bytes) : State :=
  { State.reset with op := 1, reqCircId := c, reqCmd := m, inLen := body.length, ibuf := Mem.cellsAt 0 body, pending := true }

/-- The response after an outcome, if it is a next state. -/
def answer (o : Host.Outcome State Fault Refusal) : Option Response :=
  match o with
  | .next t => t.response
  | _ => none

/-- The stage cursor after an outcome, if it is a next state. -/
def cursor (o : Host.Outcome State Fault Refusal) : Option Stage :=
  match o with
  | .next t => some t.stage
  | _ => none

/-- The transients after an outcome, if it is a next state. -/
def transients (o : Host.Outcome State Fault Refusal) : Option (CircId × Command) :=
  match o with
  | .next t => some (t.circ, t.cmd)
  | _ => none

/-- `FF*n`. -/
def ffs (n : Nat) : Bytes := List.replicate n 0xFF

/-- Scenario A's frame, `ENCODE 0, 7, "hello"` (95 S8). -/
def frameA : Bytes := [0, 0, 0, 0, 7, 0, 5, 0x68, 0x65, 0x6C, 0x6C, 0x6F]

/-- Scenario B's frame, `ENCODE 9, 3, 01 02` (95 S9). -/
def frameB : Bytes := [0, 0, 0, 9, 3, 1, 2] ++ zeros 507

/-! ## What the helpers give, so that a long frame is read once and not byte by byte -/

theorem decodeReq_input (W : Bytes) : (decodeReq W).input = W := by
  apply List.ext_getElem
  · simp [decodeReq]
  · intro i h1 h2
    rw [State.input_getElem]
    simp [State.ibufByte, decodeReq, Mem.read_cellsAt, h2]

theorem encodeReq_input (c : CircId) (m : Command) (body : Bytes) : (encodeReq c m body).input = body := by
  apply List.ext_getElem
  · simp [encodeReq]
  · intro i h1 h2
    rw [State.input_getElem]
    simp [State.ibufByte, encodeReq, Mem.read_cellsAt, h2]

theorem answer_decode {W : Bytes} {cell : ChannelCell} (h : decodeCell W = .ok cell) :
    answer (exec .decode (decodeReq W)) = some (.cell cell) := by
  simp only [exec, execDecode, decodeReq_input, h]
  exact State.answerCell_response _ _ rfl

theorem answer_transact_cell {W : Bytes} {cell : ChannelCell} {d : Except DecodeError ChannelCell} {e : Except EncodeError Bytes}
    (h : d = .ok cell) : answer (.next ((decodeReq W).transact d e)) = some (.cell cell) := by
  subst h
  exact State.answerCell_response _ _ rfl

theorem answer_transact_frame {c : CircId} {m : Command} {body W : Bytes} {d : Except DecodeError ChannelCell}
    {e : Except EncodeError Bytes} (h : e = .ok W) : answer (.next ((encodeReq c m body).transact d e)) = some (.frame W) := by
  subst h
  exact State.answerFrame_response _ _ rfl

theorem zeros_length (n : Nat) : (zeros n).length = n := List.length_replicate

/-! ## Well-formedness: an ill-formed term for each check (the rows' operand values, R59, R72) -/

theorem test_wf_cmd1to6 : (Instr.cmd1to6 0).wellFormed = false ∧ (Instr.cmd1to6 7).wellFormed = false := by decide
theorem test_wf_cmd8to127 : (Instr.cmd8to127 7).wellFormed = false ∧ (Instr.cmd8to127 128).wellFormed = false := by decide
theorem test_wf_cmd129to255 : (Instr.cmd129to255 128).wellFormed = false ∧ (Instr.cmd129to255 0).wellFormed = false := by decide
theorem test_wf_extFix : (Instr.extFix 7).wellFormed = false ∧ (Instr.extFix 128).wellFormed = false := by decide
theorem test_wf_extVar : (Instr.extVar 6).wellFormed = false ∧ (Instr.extVar 8).wellFormed = false := by decide
theorem test_wf_encFix : (Instr.encFix 7).wellFormed = false ∧ (Instr.encFix 255).wellFormed = false := by decide
theorem test_wf_encVar : (Instr.encVar 0).wellFormed = false ∧ (Instr.encVar 127).wellFormed = false := by decide

/-! ## Decoding: each constructor from a word written out from its row of opcode_table.json -/

/-- REQ: bit 0 is OP. -/
theorem test_decode_req : decodeTableWord 1 0b0 = some .decode ∧ decodeTableWord 1 0b1 = some .encode := by decide

/-- F and V: bits 7..0 are the command byte. The values are the edges of the blocks of R60. -/
theorem test_decode_commands :
    decodeTableWord 8 0b00000000 = some .cmd0 ∧ decodeTableWord 8 0b00000001 = some (.cmd1to6 1) ∧
    decodeTableWord 8 0b00000110 = some (.cmd1to6 6) ∧ decodeTableWord 8 0b00000111 = some .cmd7 ∧
    decodeTableWord 8 0b00001000 = some (.cmd8to127 8) ∧ decodeTableWord 8 0b01111111 = some (.cmd8to127 127) ∧
    decodeTableWord 8 0b10000000 = some .cmd128 ∧ decodeTableWord 8 0b10000001 = some (.cmd129to255 129) ∧
    decodeTableWord 8 0b11111111 = some (.cmd129to255 255) := by decide

/-- UOP with OP = 0: bit 8 clear, bits 7..0 the governing command. -/
theorem test_decode_uop_decode :
    decodeSelector (.uop .d0 0b000000000) = .ok .hdrParse ∧ decodeSelector (.uop .d0 0b011111111) = .ok .hdrParse ∧
    decodeSelector (.uop .d3f 0b000000110) = .ok (.extFix 6) ∧ decodeSelector (.uop .d3f 0b001111111) = .ok (.extFix 127) ∧
    decodeSelector (.uop .d3v 0b000000111) = .ok (.extVar 7) ∧ decodeSelector (.uop .d3v 0b010000000) = .ok (.extVar 128) := by
  decide

/-- UOP with OP = 1: bit 8 set. -/
theorem test_decode_uop_encode :
    decodeSelector (.uop .e0 0b100000000) = .ok (.valLen 0) ∧ decodeSelector (.uop .e1 0b111111111) = .ok (.valCirc 255) ∧
    decodeSelector (.uop .e01 0b101010101) = .ok (.validate 0x55) ∧ decodeSelector (.uop .e2 0b110101010) = .ok (.encHdr 0xAA) ∧
    decodeSelector (.uop .e3v 0b100000111) = .ok (.encVar 7) ∧ decodeSelector (.uop .e3v 0b110000000) = .ok (.encVar 128) ∧
    decodeSelector (.uop .e3f 0b100001000) = .ok (.encFix 8) ∧ decodeSelector (.uop .e3f 0b101000000) = .ok (.encFix 64) := by
  decide

/-- A stage and a selector that no row joins are rejected by name: EXT.FIX's stage with command 7, a DECODE selector at E2. -/
theorem test_decode_rejects :
    decodeSelector (.uop .d3f 0b000000111) = .error (.noRow .d3f 7) ∧
    decodeSelector (.uop .e2 0b000000001) = .error (.noRow .e2 1) ∧
    decodeSelector (.uop .idle 0b000000001) = .error (.noRow .idle 1) ∧
    decodeFrameCommand [0, 0, 0, 9] = .error .noCommandByte := by decide

/-- The machine's own selector, placed and stepped: a table word that is the first instruction after reset. -/
theorem test_step_table_words :
    (State.reset.withFetchWord 1 0).selector = .req 0 ∧ (State.reset.withFetchWord 9 0x1FF).fetch = .ok (some (.encVar 255)) ∧
    (State.reset.withFetchWord 9 0x107).selector = .uop .e3v 0x107 ∧
    (State.reset.withFetchWord 9 0).fetch = .ok (some .hdrParse) := by decide

/-! ## Functions of the command (95 section 2.1) -/

theorem test_isVar :
    [0, 1, 3, 6, 7, 8, 64, 127, 128, 129, 200, 255].map isVar =
      [false, false, false, false, true, false, false, false, true, true, true, true] := by decide

theorem test_policyClass :
    [0, 1, 3, 6, 7, 8, 64, 127, 128, 129, 200, 255].map policyClass =
      [.absent, .present, .present, .present, .absent, .present, .present, .present, .absent, .unconstrained, .unconstrained,
        .unconstrained] := by decide

theorem test_policyCheck :
    policyCheck 1 0 = .forbidden ∧ policyCheck 0xFFFFFFFF 7 = .forbidden ∧ policyCheck 0 128 = .pass ∧
    policyCheck 0 8 = .required ∧ policyCheck 0x80000000 127 = .pass ∧ policyCheck 5 129 = .pass := by decide

/-! ## Strip and the fields (95 section 2.3; R36) -/

theorem test_strip :
    strip [] = [] ∧ strip [0, 0, 0] = [] ∧ strip [1, 2, 0, 0] = [1, 2] ∧ strip [0, 1, 0, 2, 0] = [0, 1, 0, 2] ∧
    strip [0, 0, 0x80] = [0, 0, 0x80] := by decide

theorem test_big_endian :
    be32 [0x12, 0x34, 0x56, 0x78] = 305419896#32 ∧ be16 [0x01, 0x2C] = 300 ∧ toBe16 300 = [0x01, 0x2C] ∧
    toBe32 0xDEADBEEF = [0xDE, 0xAD, 0xBE, 0xEF] := by decide

/-! ## The operations, one step at the ports (95 S8, S9, 2.4 to 2.7) -/

theorem test_decode_variable : answer (exec .decode (decodeReq frameA)) = some (.cell ⟨0, 7, [0x68, 0x65, 0x6C, 0x6C, 0x6F]⟩) := by
  decide +kernel

theorem test_decode_fixed : answer (exec .decode (decodeReq (frameB ++ [0xEE, 0xEE]))) = some (.cell ⟨9, 3, [1, 2]⟩) :=
  answer_decode (by decide +kernel)

theorem test_encode_variable : answer (exec .encode (encodeReq 0 7 [0x68, 0x65, 0x6C, 0x6C, 0x6F])) = some (.frame frameA) := by
  decide +kernel

/-- Check 1 before check 2 (95 section 2.6). -/
theorem test_encode_order : answer (exec .encode (encodeReq 5 0 (zeros 510))) = some (.error .bodyTooLong) := by decide +kernel

theorem test_cmd0_decode : answer (exec .cmd0 (decodeReq (zeros 514))) = some (.cell ⟨0, 0, []⟩) :=
  answer_transact_cell (by rw [decodeReq_input]; decide +kernel)

theorem test_cmd0_encode :
    answer (exec .cmd0 (encodeReq 1 0 [])) = some (.error (.circuitIdPolicyViolation .forbidden)) := by decide +kernel

/-- Command 6 is fixed-length: bytes 5 and 6 are not a Length (95 section 2.4). -/
theorem test_cmd1to6_decode : answer (exec (.cmd1to6 6) (decodeReq [0, 0, 0, 0, 6, 0xFF, 0xFF])) = some (.error .incompleteData) := by
  decide +kernel

theorem test_cmd1to6_encode :
    answer (exec (.cmd1to6 3) (encodeReq 9 3 [0, 1, 0, 2, 0])) = some (.frame ([0, 0, 0, 9, 3, 0, 1, 0, 2] ++ zeros 505)) :=
  answer_transact_frame (by rw [encodeReq_input]; decide +kernel)

theorem test_cmd7_decode : answer (exec .cmd7 (decodeReq [0, 0, 0, 0, 7, 0, 1])) = some (.error .truncatedBody) := by decide +kernel

theorem test_cmd7_encode : answer (exec .cmd7 (encodeReq 0 7 [])) = some (.frame [0, 0, 0, 0, 7, 0, 0]) := by decide +kernel

theorem test_cmd8to127_decode :
    answer (exec (.cmd8to127 127) (decodeReq ([0, 0, 0, 0, 0x7F] ++ zeros 509))) = some (.cell ⟨0, 127, []⟩) :=
  answer_transact_cell (by rw [decodeReq_input]; decide +kernel)

theorem test_cmd8to127_encode :
    answer (exec (.cmd8to127 127) (encodeReq 0 127 [])) = some (.error (.circuitIdPolicyViolation .required)) := by decide +kernel

theorem test_cmd128_decode :
    answer (exec .cmd128 (decodeReq [0, 0, 0, 0, 0x80, 0, 3, 1, 2, 3, 4])) = some (.cell ⟨0, 128, [1, 2, 3]⟩) := by decide +kernel

theorem test_cmd128_encode :
    answer (exec .cmd128 (encodeReq 0 128 [1, 2, 3])) = some (.frame [0, 0, 0, 0, 0x80, 0, 3, 1, 2, 3]) := by decide +kernel

theorem test_cmd129to255_decode :
    answer (exec (.cmd129to255 129) (decodeReq [0x12, 0x34, 0x56, 0x78, 0x81, 0, 3, 0xAA, 0, 0])) =
      some (.cell ⟨305419896, 129, [0xAA, 0, 0]⟩) := by decide +kernel

theorem test_cmd129to255_encode :
    answer (exec (.cmd129to255 129) (encodeReq 0 129 [0])) = some (.frame [0, 0, 0, 0, 0x81, 0, 1, 0]) := by decide +kernel

/-! ## The micro-operations, one step each (95 sections 2.2 to 2.7; the cursor is R28's) -/

theorem test_hdrParse :
    transients (exec .hdrParse (decodeReq [0x12, 0x34, 0x56, 0x78, 0x81])) = some (0x12345678, 129) ∧
    cursor (exec .hdrParse (decodeReq [0x12, 0x34, 0x56, 0x78, 0x81])) = some .d3v := by decide +kernel

theorem test_hdrParse_short : answer (exec .hdrParse (decodeReq [0, 0, 0, 9])) = some (.error .incompleteData) := by decide +kernel

theorem test_extFix : answer (exec (.extFix 3) { decodeReq frameB with circ := 9 }) = some (.cell ⟨9, 3, [1, 2]⟩) := by
  have h : extFix ({ decodeReq frameB with circ := 9 } : State).input = .ok [1, 2] := by
    rw [show ({ decodeReq frameB with circ := 9 } : State).input = frameB from decodeReq_input frameB]
    decide +kernel
  simp only [exec, execExtFix, h]
  exact State.answerCell_response _ _ rfl

theorem test_extFix_short : answer (exec (.extFix 3) (decodeReq ([0, 0, 0, 9, 3] ++ zeros 508))) = some (.error .incompleteData) := by
  decide +kernel

theorem test_extVar : answer (exec (.extVar 7) (decodeReq [0, 0, 0, 0, 7, 0, 2, 0, 0])) = some (.cell ⟨0, 7, [0, 0]⟩) := by decide +kernel

theorem test_extVar_short : answer (exec (.extVar 7) (decodeReq [0, 0, 0, 0, 7, 0])) = some (.error .incompleteData) := by
  decide +kernel

theorem test_valLen :
    cursor (exec (.valLen 5) (encodeReq 2 5 (zeros 509))) = some .e1 ∧
    cursor (exec (.valLen 7) (encodeReq 0 7 (zeros 510))) = some .e1 := by decide +kernel

theorem test_valLen_long : answer (exec (.valLen 2) (encodeReq 1 2 (zeros 510))) = some (.error .bodyTooLong) := by decide +kernel

theorem test_valCirc :
    cursor (exec (.valCirc 129) (encodeReq 5 129 [])) = some .e2 ∧
    answer (exec (.valCirc 6) (encodeReq 0 6 [])) = some (.error (.circuitIdPolicyViolation .required)) := by decide +kernel

theorem test_validate :
    answer (exec (.validate 1) (encodeReq 0 1 (zeros 510))) = some (.error .bodyTooLong) ∧
    cursor (exec (.validate 0) (encodeReq 0 0 (zeros 509))) = some .e2 := by decide +kernel

theorem test_encHdr :
    (match exec (.encHdr 6) (encodeReq 0xDEADBEEF 6 []) with | .next t => (List.range 6).map t.obuf.read | _ => []) =
      [some 0xDE, some 0xAD, some 0xBE, some 0xEF, some 6, none] := by decide +kernel

/-- The tail of scenario A's frame behind its header. -/
theorem test_encVar :
    answer (exec (.encVar 7) { encodeReq 0 7 [0x68, 0x65, 0x6C, 0x6C, 0x6F] with obuf := Mem.cellsAt 0 [0, 0, 0, 0, 7] }) =
      some (.frame frameA) := by decide +kernel

/-- The tail of scenario B's frame behind its header; old bytes beyond the frame do not stay. -/
theorem test_encFix :
    (match exec (.encFix 3) { encodeReq 9 3 [1, 2] with obuf := Mem.cellsAt 0 ([0, 0, 0, 9, 3] ++ ffs 600) } with
      | .next t => t.outLen :: ([3, 4, 5, 6, 7, 513, 514].map (fun a => ((t.obuf.read a).map BitVec.toNat).getD 999))
      | _ => []) =
      [514, 9, 3, 1, 2, 0, 0, 999] := by decide +kernel

/-- LINK_VERSION other than 4 has no meaning (R7). -/
theorem test_link_version : step { decodeReq frameA with linkVersion := 3 } = .refused (.linkVersion 3) := rfl

/-- The canonical form and reading back: a write over a written byte (R46). -/
theorem test_memory :
    ((Mem.writeBytes [] 5 [1, 2, 3]).writeBytes 6 [9]).wf ∧
    ((Mem.writeBytes [] 5 [1, 2, 3]).writeBytes 6 [9]).read 6 = some 9 ∧
    ((Mem.writeBytes [] 5 [1, 2, 3]).writeBytes 6 [9]).read 7 = some 3 ∧
    ((Mem.writeBytes [] 5 [1, 2, 3]).writeBytes 6 [9]).read 8 = none := by decide

/-- The host reads scenario A's body and not the byte behind it, and of OBUF nothing after an error (R30, R123). -/
theorem test_hostRead :
    ((decodeReq frameA).answerCell ⟨0, 7, [0x68]⟩).hostReadResponse = .next (some (.cell ⟨0, 7, [0x68]⟩)) ∧
    ((decodeReq frameA).answerCell ⟨0, 7, [0x68]⟩).responseView = ⟨0, none, some 0, some 7, some 1⟩ ∧
    ((decodeReq []).raise .incompleteData).responseView = ⟨1, none, none, none, none⟩ ∧
    ((decodeReq frameA).answerCell ⟨0, 7, [0x68]⟩).hostReadObuf 0 = .next 0x68 ∧
    ((decodeReq frameA).answerCell ⟨0, 7, [0x68]⟩).hostReadObuf 1 = .fault (.unspecifiedByte 1) ∧
    ((decodeReq []).raise .incompleteData).hostReadObuf 0 = .fault (.unspecifiedByte 0) := by
  have L := Config.two_pow_lenW_ge
  refine ⟨rfl, by decide, by decide, ?_, ?_, ?_⟩
  · rw [State.hostReadObuf_eq (o := 0) (by omega) (by decide) rfl]; rfl
  · rw [State.hostReadObuf_eq (o := 0) (by omega) (by decide) rfl]; rfl
  · rw [State.hostReadObuf_eq (o := 0) (by omega) (by decide) rfl]; rfl

/-- Before the first transaction the host reads the registers and OBUF, and there is no response (R31, R32); a request presented and not
yet answered admits neither a read nor another request (R47, R146), and a step without one changes nothing (R142). -/
theorem test_hostRead_first :
    State.reset.hostReadResponse = .next none ∧ (∃ b, State.reset.hostReadObuf 0 = .next b) ∧
    ({ decodeReq frameA with stage := .d3v } : State).hostReadResponse = .refused .transactionInProgress ∧
    (encodeReq 9 3 frameA).hostReadResponse = .refused .transactionInProgress ∧
    (encodeReq 9 3 frameA).presentDecode [] = .refused .transactionInProgress ∧ step State.reset = .next State.reset := by
  have L := Config.two_pow_lenW_ge
  exact ⟨rfl, ⟨_, State.hostReadObuf_first (by omega) (by decide) rfl⟩, rfl, rfl, rfl, rfl⟩

/-! ## Witnesses: selectors and steps -/

theorem test_witness_SelectorRoundTrip :
    (Instr.extVar 7).wellFormed = true ∧ (Instr.extVar 255).wellFormed = true ∧ (Instr.cmd1to6 6).wellFormed = true ∧
    Instr.hdrParse.wellFormed = true := by decide

/-- Both alternatives: a selector that is the instruction's own, and one that differs from it in don't-care bits. -/
theorem test_witness_DecodedInstructionIsWellFormed :
    decodeSelector (.uop .e3f 0x17F) = .ok (.encFix 127) ∧ (Instr.encFix 127).selector = .uop .e3f 0x17F ∧
    decodeSelector (.uop .d0 0x0FF) = .ok .hdrParse ∧ Instr.hdrParse.selector ≠ .uop .d0 0x0FF ∧
    Selector.uop .d0 0x0FF = .uop .d0 (selOf 0 0xFF) := by decide

/-- The edges of the six classes. -/
theorem test_witness_CommandMapIsComplete :
    (0#8).toNat = 0 ∧ (1 ≤ (1#8).toNat ∧ (6#8).toNat ≤ 6) ∧ (7#8).toNat = 7 ∧ (8 ≤ (8#8).toNat ∧ (127#8).toNat ≤ 127) ∧
    (128#8).toNat = 128 ∧ 129 ≤ (129#8).toNat ∧ 129 ≤ (255#8).toNat := by decide

/-- A request presented, none, the two halves of a stage's selector, and a DECODE at D0 with 5 and with 4 bytes. -/
theorem test_witness_StepRunsDecodedInstruction :
    ((encodeReq 9 3 []).linkVersion = 4#8 ∧ (encodeReq 9 3 []).pending = true ∧
      decodeSelector (encodeReq 9 3 []).selector = .ok .encode) ∧
    (State.reset.linkVersion = 4#8 ∧ State.reset.pending = false ∧ State.reset.stage = .idle) ∧
    ({ State.reset with linkVersion := 5 } : State).linkVersion ≠ 4#8 ∧
    (({ decodeReq [0, 0, 0, 9, 3] with stage := .d0 } : State).stage = .d0 ∧ 5 ≤ (decodeReq [0, 0, 0, 9, 3]).inLen) ∧
    (({ decodeReq [0, 0, 0, 9] with stage := .d0 } : State).op = 0#1 ∧ (decodeReq [0, 0, 0, 9]).linkVersion = 4#8) ∧
    (({ decodeReq frameA with stage := .d3v, cmd := 7 } : State).stage ≠ .idle ∧
      ({ decodeReq frameA with stage := .d3v, cmd := 7 } : State).stage ≠ .d0 ∧
      ({ decodeReq frameA with stage := .d3v, cmd := 7 } : State).op = 0#1 ∧ 5 ≤ (decodeReq frameA).inLen) ∧
    ({ encodeReq 9 3 [] with stage := .e2 } : State).stage ≠ .idle ∧ ({ encodeReq 9 3 [] with stage := .e2 } : State).op = 1#1 := by
  decide

theorem test_witness_StepRunsCommandClass :
    ((decodeReq frameA).linkVersion = 4#8 ∧ (decodeReq frameA).stage = .idle ∧ (decodeReq frameA).pending = true ∧
      (decodeReq frameA).requestClass = .ok .cmd7) ∧
    (encodeReq 9 127 []).linkVersion = 4#8 ∧ (encodeReq 9 127 []).stage = .idle ∧ (encodeReq 9 127 []).pending = true ∧
    (encodeReq 9 127 []).requestClass = .ok (.cmd8to127 127) := by decide +kernel

/-! ## Witnesses: functions of byte sequences -/

theorem test_witness_PolicyFollowsFraming : policyClass 127 = .present ∧ policyClass 129 = .unconstrained := by decide

theorem test_witness_BigEndianFields : 65535 ≤ 65535 ∧ [0xDE, 0xAD, 0xBE, (0xEF : Byte)].length = 4 ∧ [0, (0xFF : Byte)].length = 2 := by
  decide

theorem test_witness_StripIsShortest :
    ([0, 0] : Bytes).length ≤ ([0, 0] : Bytes).length ∧ ∀ i (h : i < ([1, 0, 0] : Bytes).length), 1 ≤ i → ([1, 0, 0] : Bytes)[i] = 0#8 := by
  decide

theorem test_witness_FixedExtractionContract :
    ([0, 0, 0, 9, 3] : Bytes).length = 5 ∧ (zeros 508 ++ [0x80]).length = 509 := by decide +kernel

/-- No byte behind the header where one is declared, and a Length of 0. -/
theorem test_witness_VariableExtractionContract :
    (([0, 0, 0, 0, 7] : Bytes).length = 5 ∧ ([] : Bytes).length < (0#8).toNat * 256 + (1#8).toNat) ∧
    (([] : Bytes).length = (0#8).toNat * 256 + (0#8).toNat) ∧ (zeros 256).length = (1#8).toNat * 256 + (0#8).toNat := by decide +kernel

theorem test_witness_ValidatorChecks : 129 ≤ (129#8).toNat ∧ 129 ≤ (255#8).toNat := by decide

/-- 509 and 510 meet at command 6, and 510 passes for command 7. -/
theorem test_witness_ValidateOrder :
    (isVar 6 = false ∧ 510 ≤ 510) ∧ ¬ (isVar 6 = false ∧ 510 ≤ 509) ∧ ¬ (isVar 7 = false ∧ 510 ≤ 510) ∧
    validate 1 6 509 = .ok () ∧ validate 0 0 509 = .ok () ∧ policyClass 0 = .absent ∧ policyClass 6 = .present := by decide

theorem test_witness_VariablePayloadEncoding : (zeros 65535).length ≤ 65535 ∧ 65536 ≤ (zeros 65536).length := by
  simp only [zeros_length]
  decide +kernel

theorem test_witness_FixedPayloadEncoding : ([] : Bytes).length ≤ 509 ∧ (zeros 509).length ≤ 509 ∧ (0 : Nat) ≤ 508 ∧ 508 < 509 := by
  simp only [zeros_length]
  decide +kernel

/-- 4 and 5 bytes; 513 and 514 for command 3; 6 and 7 for command 7; Length 1 with 0 and with 1 byte behind it. -/
theorem test_witness_DecodeCases :
    ([0, 0, 0, 9] : Bytes).length < 5 ∧ 5 ≤ ([0, 0, 0, 9, 3] : Bytes).length ∧
    (isVar ([0, 0, 0, 9, 3] ++ zeros 508)[4]! = false ∧ ([0, 0, 0, 9, 3] ++ zeros 508).length < 514) ∧
    (isVar frameB[4]! = false ∧ 514 ≤ frameB.length) ∧
    (isVar ([0, 0, 0, 0, 7, 0] : Bytes)[4]! = true ∧ ([0, 0, 0, 0, 7, 0] : Bytes).length < 7) ∧
    (isVar ([0, 0, 0, 0, 7, 0, 1] : Bytes)[4]! = true ∧ 7 ≤ ([0, 0, 0, 0, 7, 0, 1] : Bytes).length ∧
      ([0, 0, 0, 0, 7, 0, 1] : Bytes).length < 7 + be16 (slice [0, 0, 0, 0, 7, 0, 1] 5 7)) ∧
    (isVar ([0, 0, 0, 0, 7, 0, 1, 5] : Bytes)[4]! = true ∧
      7 + be16 (slice [0, 0, 0, 0, 7, 0, 1, 5] 5 7) ≤ ([0, 0, 0, 0, 7, 0, 1, 5] : Bytes).length) := by decide +kernel

theorem test_witness_EncodeCases :
    (isVar 3 = false ∧ 509 < (zeros 510).length) ∧ ((isVar 0 = true ∨ (zeros 509).length ≤ 509) ∧ policyCheck 5 0 = .forbidden) ∧
    ((isVar 1 = true ∨ (zeros 509).length ≤ 509) ∧ policyCheck 0 1 = .required) ∧
    (isVar 7 = true ∧ policyCheck 0 7 = .pass ∧ 65535 < (zeros 65536).length) ∧
    (isVar 200 = true ∧ policyCheck 77 200 = .pass ∧ (zeros 65535).length ≤ 65535) ∧
    (isVar 3 = false ∧ policyCheck 9 3 = .pass ∧ (zeros 509).length ≤ 509) := by
  simp only [zeros_length]
  decide +kernel

theorem test_witness_Command0Rule :
    (zeros 513)[4]? = some 0#8 ∧ (zeros 513).length < 514 ∧ (zeros 514)[4]? = some 0#8 ∧ 514 ≤ (zeros 514).length ∧
    509 < (zeros 510).length ∧ ((zeros 509).length ≤ 509 ∧ 5#32 ≠ 0#32) ∧ (0 : CircId) = 0#32 := by decide +kernel

theorem test_witness_CommandsThatNeedACircuitRule :
    (1 ≤ (1#8).toNat ∧ (6#8).toNat ≤ 6) ∧ (8 ≤ (8#8).toNat ∧ (127#8).toNat ≤ 127) ∧
    (([0, 0, 0, 0, 6] ++ zeros 508)[4]? = some 6#8 ∧ ([0, 0, 0, 0, 6] ++ zeros 508).length < 514) ∧
    (([0, 0, 0, 0, 127] ++ zeros 509)[4]? = some 127#8 ∧ 514 ≤ ([0, 0, 0, 0, 127] ++ zeros 509).length) ∧
    509 < (zeros 510).length ∧ (zeros 509).length ≤ 509 ∧ (0 : CircId) = 0#32 ∧ 1#32 ≠ 0#32 := by decide +kernel

theorem test_witness_Commands7And128Rule :
    (7#8).toNat = 7 ∧ (128#8).toNat = 128 ∧ ([0, 0, 0, 0, 7, 0] : Bytes)[4]? = some 7#8 ∧ ([0, 0, 0, 0, 7, 0] : Bytes).length < 7 ∧
    (([0, 0, 0, 0, 0x80, 0, 1] : Bytes)[4]? = some 128#8 ∧ 7 ≤ ([0, 0, 0, 0, 0x80, 0, 1] : Bytes).length ∧
      ([0, 0, 0, 0, 0x80, 0, 1] : Bytes).length < 7 + be16 (slice [0, 0, 0, 0, 0x80, 0, 1] 5 7)) ∧
    (7 + be16 (slice [0, 0, 0, 0, 7, 0, 0] 5 7) ≤ ([0, 0, 0, 0, 7, 0, 0] : Bytes).length) ∧ 5#32 ≠ 0#32 ∧
    65535 < (zeros 65536).length ∧ (zeros 65535).length ≤ 65535 := by
  simp only [zeros_length]
  decide +kernel

theorem test_witness_Commands129To255Rule :
    129 ≤ (129#8).toNat ∧ 129 ≤ (255#8).toNat ∧ ([0, 0, 0, 0, 0x81, 0] : Bytes)[4]? = some 129#8 ∧
    ([0, 0, 0, 0, 0x81, 0] : Bytes).length < 7 ∧
    (ffs 7)[4]? = some 255#8 ∧ 7 ≤ (ffs 7).length ∧ (ffs 7).length < 7 + be16 (slice (ffs 7) 5 7) ∧
    7 + be16 (slice [0, 0, 0, 0, 0x81, 0, 0] 5 7) ≤ ([0, 0, 0, 0, 0x81, 0, 0] : Bytes).length ∧
    65535 < (zeros 65536).length ∧ (zeros 65535).length ≤ 65535 := by
  simp only [zeros_length]
  decide +kernel

theorem test_witness_ExtractionDependsOnClassification :
    ([0, 0, 0, 9] : Bytes).length = 4 ∧ isVar 7 = isVar 255 ∧ isVar 6 = isVar 8 := by decide

theorem test_witness_DecodeAppliesNoPolicy :
    (isVar 0 = false ∧ (zeros 509).length = 509) ∧ isVar 7 = true ∧ (zeros 65535).length ≤ 65535 := by
  simp only [zeros_length]
  decide +kernel

theorem test_witness_VariableRoundTrip : isVar 7 = true ∧ encodeCell 0 7 [0, 0] = .ok [0, 0, 0, 0, 7, 0, 2, 0, 0] := by decide

theorem test_witness_FixedRoundTrip :
    isVar 3 = false ∧ encodeCell 9 3 [1, 2, 0, 0] = .ok frameB ∧ encodeCell 9 3 [1, 2] = .ok frameB := by decide +kernel

theorem test_witness_FixedRoundTripQualified :
    (zeros 509).length ≤ 509 ∧ isVar 6 = false ∧ isVar 8 = false ∧ 8#8 ≠ 0#8 := by decide +kernel

theorem test_witness_TrailingBytesAreIgnored :
    decodeCell frameA = .ok ⟨0, 7, [0x68, 0x65, 0x6C, 0x6C, 0x6F]⟩ ∧ isVar 7 = true ∧
    decodeCell (frameB ++ [0xEE, 0xEE]) = .ok ⟨9, 3, [1, 2]⟩ ∧ isVar 3 = false := by decide +kernel

theorem test_witness_EncodeForgetsOnlyTrailingZeros :
    (isVar 3 = false ∧ ([1, 2] : Bytes).length + 507 ≤ 509) ∧
    (isVar 3 = false ∧ encodeCell 9 3 [1, 2] = .ok frameB ∧ encodeCell 9 3 [1, 2, 0, 0] = .ok frameB) ∧ isVar 7 = true ∧ encodeCell 0 7 [] = .ok [0, 0, 0, 0, 7, 0, 0] := by decide +kernel

theorem test_witness_ReencodingRestoresTheFrame :
    (decodeCell [0xCA, 0xFE, 0, 1, 0xC8, 0, 2, 0, 0, 0x99] = .ok ⟨0xCAFE0001, 200, [0, 0]⟩ ∧ policyCheck 0xCAFE0001 200 = .pass) ∧
    (decodeCell ([0, 0, 0, 7, 0, 0x41] ++ zeros 508) = .ok ⟨7, 0, [0x41]⟩ ∧ policyCheck 7 0 = .forbidden) ∧
    (decodeCell ([0, 0, 0, 0, 5] ++ zeros 509) = .ok ⟨0, 5, []⟩ ∧ policyCheck 0 5 = .required) := by decide +kernel

/-- Prefixes 0, 4, 6, 7 and 11 of scenario A's frame, 5 and 513 of scenario B's. -/
theorem test_witness_PrefixesOfAFrameFail :
    (decodeCell frameA = .ok ⟨0, 7, [0x68, 0x65, 0x6C, 0x6C, 0x6F]⟩ ∧ frameA.length = frameLen 7 5 ∧ 4 < frameA.length ∧
      6 < frameA.length ∧ 7 < frameA.length ∧ 11 < frameA.length ∧ isVar 7 = true) ∧
    (decodeCell frameB = .ok ⟨9, 3, [1, 2]⟩ ∧ frameB.length = frameLen 3 2 ∧ 5 < frameB.length ∧ 513 < frameB.length ∧
      isVar 3 = false) := by decide +kernel

theorem test_witness_FrameLengthsAndRanges :
    encodeCell 0 7 [] = .ok [0, 0, 0, 0, 7, 0, 0] ∧ encodeCell 0 0 [] = .ok (zeros 514) ∧ isVar 7 = true ∧ isVar 0 = false ∧
    decodeCell (zeros 514) = .ok ⟨0, 0, []⟩ ∧ decodeCell [0, 0, 0, 0, 7, 0, 0] = .ok ⟨0, 7, []⟩ := by decide +kernel

/-! ## Witnesses: the ports and the stages -/

theorem test_witness_DecodeAtThePorts :
    decodeCell (decodeReq frameA).input = .ok ⟨0, 7, [0x68, 0x65, 0x6C, 0x6C, 0x6F]⟩ ∧
    decodeCell (decodeReq [0, 0, 0, 9]).input = .error .incompleteData ∧
    decodeCell (decodeReq [0, 0, 0, 0, 7, 0, 1]).input = .error .truncatedBody := by
  simp only [decodeReq_input]
  decide

theorem test_witness_EncodeAtThePorts :
    encodeCell 0 7 (encodeReq 0 7 [1]).input = .ok [0, 0, 0, 0, 7, 0, 1, 1] ∧
    encodeCell 5 0 (encodeReq 5 0 (zeros 510)).input = .error .bodyTooLong ∧
    encodeCell 5 0 (encodeReq 5 0 (zeros 509)).input = .error (.circuitIdPolicyViolation .forbidden) ∧
    encodeCell 0 1 (encodeReq 0 1 (zeros 509)).input = .error (.circuitIdPolicyViolation .required) := by
  simp only [encodeReq_input]
  decide +kernel

theorem test_witness_Command0AtThePorts :
    ((decodeReq (zeros 513)).op = 0#1 ∧ (decodeReq (zeros 513)).inLen < 514) ∧ 514 ≤ (decodeReq (zeros 514)).inLen ∧
    ((encodeReq 5 0 (zeros 510)).op = 1#1 ∧ 509 < (encodeReq 5 0 (zeros 510)).inLen) ∧
    ((encodeReq 5 0 (zeros 509)).inLen ≤ 509 ∧ (encodeReq 5 0 (zeros 509)).reqCircId ≠ 0#32) ∧
    (encodeReq 0 0 (zeros 509)).inLen ≤ 509 ∧ (encodeReq 0 0 (zeros 509)).reqCircId = 0#32 := by decide +kernel

theorem test_witness_CommandsThatNeedACircuitAtThePorts :
    (Instr.cmd1to6 6 = .cmd1to6 6 ∧ Instr.cmd8to127 8 = .cmd8to127 8) ∧
    ((decodeReq (zeros 513)).op = 0#1 ∧ (decodeReq (zeros 513)).inLen < 514) ∧ 514 ≤ (decodeReq (zeros 514)).inLen ∧
    ((encodeReq 1 6 (zeros 510)).op = 1#1 ∧ 509 < (encodeReq 1 6 (zeros 510)).inLen) ∧
    ((encodeReq 0 6 (zeros 509)).inLen ≤ 509 ∧ (encodeReq 0 6 (zeros 509)).reqCircId = 0#32) ∧
    (encodeReq 1 8 (zeros 509)).inLen ≤ 509 ∧ (encodeReq 1 8 (zeros 509)).reqCircId ≠ 0#32 := by decide +kernel

theorem test_witness_Commands7And128AtThePorts :
    ((decodeReq [0, 0, 0, 0, 7, 0]).op = 0#1 ∧ (decodeReq [0, 0, 0, 0, 7, 0]).inLen < 7) ∧
    (7 ≤ (decodeReq [0, 0, 0, 0, 7, 0, 1]).inLen ∧
      (decodeReq [0, 0, 0, 0, 7, 0, 1]).inLen < 7 + be16 (slice (decodeReq [0, 0, 0, 0, 7, 0, 1]).input 5 7)) ∧
    (7 ≤ (decodeReq [0, 0, 0, 0, 7, 0, 0]).inLen ∧
      7 + be16 (slice (decodeReq [0, 0, 0, 0, 7, 0, 0]).input 5 7) ≤ (decodeReq [0, 0, 0, 0, 7, 0, 0]).inLen) ∧
    ((encodeReq 5 7 []).op = 1#1 ∧ (encodeReq 5 7 []).reqCircId ≠ 0#32) ∧
    (({ encodeReq 0 7 [] with inLen := 65536 } : State).reqCircId = 0#32 ∧ 65535 < ({ encodeReq 0 7 [] with inLen := 65536 } : State).inLen) ∧
    ({ encodeReq 0 7 [] with inLen := 65535 } : State).inLen ≤ 65535 := by
  simp only [decodeReq_input]
  decide

theorem test_witness_Commands129To255AtThePorts :
    ((decodeReq [0, 0, 0, 0, 0xC8, 0]).op = 0#1 ∧ (decodeReq [0, 0, 0, 0, 0xC8, 0]).inLen < 7) ∧
    (7 ≤ (decodeReq (ffs 7)).inLen ∧ (decodeReq (ffs 7)).inLen < 7 + be16 (slice (decodeReq (ffs 7)).input 5 7)) ∧
    (7 ≤ (decodeReq [0, 0, 0, 0, 0xC8, 0, 0]).inLen ∧
      7 + be16 (slice (decodeReq [0, 0, 0, 0, 0xC8, 0, 0]).input 5 7) ≤ (decodeReq [0, 0, 0, 0, 0xC8, 0, 0]).inLen) ∧
    ((encodeReq 77 200 []).op = 1#1 ∧ 65535 < ({ encodeReq 77 200 [] with inLen := 65536 } : State).inLen) ∧
    ({ encodeReq 77 200 [] with inLen := 65535 } : State).inLen ≤ 65535 := by
  simp only [decodeReq_input]
  decide

theorem test_witness_HeaderParseStage : (decodeReq [0, 0, 0, 9]).inLen < 5 ∧ 5 ≤ (decodeReq [0, 0, 0, 9, 3]).inLen := by decide

theorem test_witness_ExtractionStages :
    (decodeReq (zeros 513)).inLen < 514 ∧ 514 ≤ (decodeReq (zeros 514)).inLen ∧ (decodeReq [0, 0, 0, 0, 7, 0]).inLen < 7 ∧
    (7 ≤ (decodeReq [0, 0, 0, 0, 7, 0, 1]).inLen ∧
      (decodeReq [0, 0, 0, 0, 7, 0, 1]).inLen < 7 + be16 (slice (decodeReq [0, 0, 0, 0, 7, 0, 1]).input 5 7)) ∧
    (7 ≤ (decodeReq [0, 0, 0, 0, 7, 0, 1, 9]).inLen ∧
      7 + be16 (slice (decodeReq [0, 0, 0, 0, 7, 0, 1, 9]).input 5 7) ≤ (decodeReq [0, 0, 0, 0, 7, 0, 1, 9]).inLen) := by
  simp only [decodeReq_input]
  decide +kernel

theorem test_witness_ValidationStages :
    (isVar 3 = false ∧ 509 < (encodeReq 9 3 (zeros 510)).inLen) ∧ (isVar 3 = true ∨ (encodeReq 9 3 (zeros 509)).inLen ≤ 509) ∧
    (isVar 7 = true ∨ (encodeReq 0 7 (zeros 510)).inLen ≤ 509) ∧ policyCheck (encodeReq 1 0 []).reqCircId 0 = .forbidden ∧
    policyCheck (encodeReq 0 1 []).reqCircId 1 = .required ∧ policyCheck (encodeReq 1 1 []).reqCircId 1 = .pass := by decide +kernel

theorem test_witness_VariableEncodeStage :
    65535 < ({ encodeReq 0 7 [] with inLen := 65536 } : State).inLen ∧
    ({ encodeReq 0 7 [] with inLen := 65535 } : State).inLen ≤ 65535 := by decide

theorem test_witness_FixedEncodeStage :
    (encodeReq 9 3 (zeros 509)).inLen ≤ 509 ∧ 509 < (encodeReq 9 3 (zeros 510)).inLen := by decide +kernel

/-! ## Witnesses: whole-machine rules -/

/-- One instruction that ends a transaction and two that do not. -/
theorem test_witness_FrameOfEveryInstruction :
    (∃ t, exec .decode (decodeReq frameA) = .next t) ∧ (∃ t, exec (.encHdr 3) { encodeReq 9 3 [] with stage := .e2 } = .next t) ∧
    (∃ t, exec (.valLen 3) { encodeReq 9 3 [] with stage := .e0 } = .next t) := ⟨⟨_, rfl⟩, ⟨_, rfl⟩, ⟨_, rfl⟩⟩

/-- The same DECODE request in two idle instances of version 4 that differ everywhere else, and an ENCODE request likewise. -/
theorem test_witness_ResponseDependsOnRequestOnly :
    (∀ s ∈ [decodeReq [0, 0, 0, 0, 7, 0, 0],
        { decodeReq [0, 0, 0, 0, 7, 0, 0, 0x55] with inLen := 7, reqCircId := 5, reqCmd := 3, status := 4, obuf := [(2, 9)], draws := 8 },
        encodeReq 9 3 [1, 2], { encodeReq 9 3 [1, 2, 3] with inLen := 2, outLen := 12, rspCmd := 7 }],
      s.linkVersion = 4#8 ∧ s.stage = .idle ∧ s.pending = true) ∧
    SameRequest (decodeReq [0, 0, 0, 0, 7, 0, 0])
      { decodeReq [0, 0, 0, 0, 7, 0, 0, 0x55] with inLen := 7, reqCircId := 5, reqCmd := 3, status := 4, obuf := [(2, 9)], draws := 8 } ∧
    SameRequest (encodeReq 9 3 [1, 2]) { encodeReq 9 3 [1, 2, 3] with inLen := 2, outLen := 12, rspCmd := 7 } := by
  refine ⟨by decide, ⟨rfl, rfl, by decide, by decide⟩, ⟨rfl, rfl, by decide, by decide⟩⟩

theorem test_witness_StagesRefineTheTransaction :
    (decodeReq frameA).linkVersion = 4#8 ∧ (encodeReq 9 3 []).linkVersion = 4#8 := by decide

theorem test_witness_RoundTripAtThePorts :
    State.reset.linkVersion = 4#8 ∧ State.reset.stage = .idle ∧ State.reset.pending = false ∧ (policyCheck 9 3 = .pass ∧ (zeros 509).length ≤ if isVar 3 then 65535 else 509) ∧
    policyCheck 0 7 = .pass ∧ (zeros 65535).length ≤ if isVar 7 then 65535 else 509 := by
  refine ⟨rfl, rfl, rfl, ⟨by decide, by rw [zeros_length]; decide⟩, by decide, by rw [zeros_length]; decide⟩

/-- The invariant of a small state, from facts that can be evaluated. -/
theorem inv_of_small {s : State} (hv : s.linkVersion = 4#8) (h1 : s.inLen < 131072) (h2 : s.outLen < 131072) (h3 : s.status.toNat ≤ 4)
    (h4 : s.ibuf.wf) (h5 : s.obuf.wf) (h6 : ∀ x ∈ s.ibuf, x.1 < 131072) (h7 : ∀ x ∈ s.obuf, x.1 < 131072) (h8 : s.StageInv)
    (h9 : s.stage ≠ .idle → s.pending = true) : s.Inv := by
  have L := Config.two_pow_lenW_ge
  exact ⟨hv, by omega, by omega, h3, h4, h5, fun x hx => by have := h6 x hx; omega, fun x hx => by have := h7 x hx; omega, h8, h9⟩

/-- An ENCODE between transactions, and the same one at the stage whose checks are behind it. -/
theorem inv_encodeReq : (encodeReq 9 3 [1, 2]).Inv :=
  inv_of_small rfl (by decide) (by decide) (by decide) (by decide) (by decide) (by decide) (by decide) ⟨rfl, rfl⟩
    (by decide)

theorem inv_encodeReq_e3f : ({ encodeReq 9 3 [1, 2] with stage := .e3f } : State).Inv :=
  inv_of_small rfl (by decide) (by decide) (by decide) (by decide) (by decide) (by decide) (by decide) ⟨rfl, rfl, rfl⟩
    (by decide)

/-- A DECODE whose header has been read. -/
theorem inv_decodeReq_d3v : ({ decodeReq frameA with stage := .d3v, cmd := 7 } : State).Inv :=
  inv_of_small rfl (by decide) (by decide) (by decide) (by decide) (by decide) (by decide) (by decide) ⟨rfl, rfl, rfl⟩
    (by decide)

/-- Nothing presented. -/
theorem inv_reset : State.reset.Inv :=
  inv_of_small rfl (by decide) (by decide) (by decide) (by decide) (by decide) (by decide) (by decide) ⟨rfl, rfl⟩
    (by decide)

theorem test_witness_InvariantIsKept :
    ((encodeReq 9 3 [1, 2]).Inv ∧ ∃ t, step (encodeReq 9 3 [1, 2]) = .next t) ∧
    (State.reset.Inv ∧ ∃ t, step State.reset = .next t) ∧
    (({ encodeReq 9 3 [1, 2] with stage := .e3f } : State).Inv ∧ ∃ t, step { encodeReq 9 3 [1, 2] with stage := .e3f } = .next t) ∧
    (({ decodeReq frameA with stage := .d3v, cmd := 7 } : State).Inv ∧
      ∃ t, step { decodeReq frameA with stage := .d3v, cmd := 7 } = .next t) :=
  ⟨⟨inv_encodeReq, _, rfl⟩, ⟨inv_reset, _, rfl⟩, ⟨inv_encodeReq_e3f, _, rfl⟩, ⟨inv_decodeReq_d3v, _, rfl⟩⟩

theorem test_witness_EveryStepAnswers : ({ decodeReq frameA with stage := .d3v, cmd := 7 } : State).Inv := inv_decodeReq_d3v

/-- 131071 is the greatest length every instance can count. -/
theorem test_witness_HostMovesKeepTheInvariant :
    (∃ t, State.construct 4 = .next t) ∧ State.reset.Inv ∧ (∃ t, State.reset.presentDecode frameA = .next t) ∧
    ∃ t, State.reset.presentEncode 0 7 (zeros 131071) = .next t := by
  have L := Config.two_pow_lenW_ge
  have h1 : State.reset.admits frameA.length = .ok () :=
    State.admits_ok.2 ⟨by decide, by simp only [frameA, List.length_cons, List.length_nil]; omega⟩
  have h2 : State.reset.admits (zeros 131071).length = .ok () := State.admits_ok.2 ⟨by decide, by rw [zeros_length]; omega⟩
  exact ⟨⟨State.reset, by simp [State.construct, Config.linkVersion]⟩, inv_reset,
    ⟨_, State.presentDecode_ok h1⟩, ⟨_, State.presentEncode_ok h2 _ _⟩⟩

/-- A request presented and not answered, a stage in progress, neither, and the lengths on both sides of LEN_W's bound. -/
theorem test_witness_RequestsWithoutMeaningAreRefused :
    (decodeReq frameA).pending = true ∧ ({ decodeReq frameA with stage := .d3v } : State).stage ≠ .idle ∧
    (State.reset.pending = false ∧ State.reset.stage = .idle) ∧
    2 ^ Config.lenW ≤ (zeros (2 ^ Config.lenW)).length ∧ (zeros 131071).length < 2 ^ Config.lenW := by
  have L := Config.two_pow_lenW_ge
  refine ⟨rfl, by decide, by decide, by rw [zeros_length], by rw [zeros_length]; omega⟩

/-- A state at a stage and one with a request presented, both resets, a request for each of the seven outcomes (95_test_vectors.md; R126), an output of 7 bytes
with its last address and the first behind it, and both requests. -/
theorem test_witness_HostReadsOnlyWhatIsDefined :
    ({ decodeReq frameA with stage := .d3v } : State).stage ≠ .idle ∧
    ((encodeReq 0 7 []).linkVersion = 4#8 ∧ (encodeReq 0 7 []).stage = .idle ∧ (encodeReq 0 7 []).pending = true) ∧
    ((decodeReq frameA).op = 0#1 ∧ decodeCell (decodeReq frameA).input = .ok ⟨0, 7, [0x68, 0x65, 0x6C, 0x6C, 0x6F]⟩) ∧
    ((decodeReq []).op = 0#1 ∧ decodeCell (decodeReq []).input = .error .incompleteData) ∧
    ((decodeReq (frameA.take 11)).op = 0#1 ∧ decodeCell (decodeReq (frameA.take 11)).input = .error .truncatedBody) ∧
    ((encodeReq 0 7 []).op = 1#1 ∧ encodeCell 0 7 (encodeReq 0 7 []).input = .ok [0, 0, 0, 0, 7, 0, 0]) ∧
    ((encodeReq 0 0 (ffs 510)).op = 1#1 ∧ encodeCell 0 0 (encodeReq 0 0 (ffs 510)).input = .error .bodyTooLong) ∧
    ((encodeReq 5 7 []).op = 1#1 ∧ encodeCell 5 7 (encodeReq 5 7 []).input = .error (.circuitIdPolicyViolation .forbidden)) ∧
    ((encodeReq 0 3 []).op = 1#1 ∧ encodeCell 0 3 (encodeReq 0 3 []).input = .error (.circuitIdPolicyViolation .required)) ∧
    ((encodeReq 0 7 []).answerFrame [0, 0, 0, 0, 7, 0, 0]).status = 0#3 ∧
    (6 < ((encodeReq 0 7 []).answerFrame [0, 0, 0, 0, 7, 0, 0]).outLen ∧
      ¬ 7 < ((encodeReq 0 7 []).answerFrame [0, 0, 0, 0, 7, 0, 0]).outLen) ∧
    ((encodeReq 5 7 []).raise (.circuitIdPolicyViolation .forbidden)).status ≠ 0#3 ∧
    (0 < 2 ^ Config.lenW ∧ 2 ^ Config.lenW ≤ 2 ^ Config.lenW) ∧ (∃ t, State.reset.presentDecode frameA = .next t) ∧
    ∃ t, State.reset.presentEncode 9 3 frameA = .next t := by
  have L := Config.two_pow_lenW_ge
  have h : State.reset.admits frameA.length = .ok () :=
    State.admits_ok.2 ⟨by decide, by simp only [frameA, List.length_cons, List.length_nil]; omega⟩
  exact ⟨by decide, by decide, by decide, by decide, by decide, by decide, ⟨rfl, by rw [encodeReq_input]; decide +kernel⟩, by decide, by decide,
    by decide, by decide, by decide, ⟨by omega, Nat.le_refl _⟩, ⟨_, State.presentDecode_ok h⟩,
    ⟨_, State.presentEncode_ok h _ _⟩⟩

theorem test_witness_InstancesAreIndependent :
    (∀ s ∈ [encodeReq 9 3 [1, 2], { decodeReq frameA with stage := .d3v, cmd := 7 }], s.Inv) ∧ (0 : Nat) ≠ 1 := by
  refine ⟨fun s hs => ?_, by decide⟩
  rcases List.mem_cons.1 hs with rfl | hs
  · exact inv_encodeReq
  · rcases List.mem_cons.1 hs with rfl | hs
    · exact inv_decodeReq_d3v
    · cases hs

end Sys2Proof.Tests
end

section
/-! PROOFS. Big-endian numbers of any length: reading and writing a sequence, by its last byte. -/

namespace Sys2Proof.Machine

@[simp] theorem beNat_nil : beNat [] = 0 := rfl

@[simp] theorem beNat_concat (X : Bytes) (b : Byte) : beNat (X ++ [b]) = beNat X * 256 + b.toNat := by
  simp [beNat]

@[simp] theorem toBe_length (k n : Nat) : (toBe k n).length = k := by
  induction k with
  | zero => rfl
  | succ k ih => simp [toBe, ih]

/-- The last byte written is the number modulo 256, and the bytes before it are the quotient's. -/
theorem toBe_succ (k n : Nat) : toBe (k + 1) n = toBe k (n / 256) ++ [BitVec.ofNat 8 n] := by
  induction k with
  | zero => simp [toBe]
  | succ k ih =>
    have hq : n / 256 ^ (k + 1) = n / 256 / 256 ^ k := by rw [pow_succ', Nat.div_div_eq_div_mul]
    rw [toBe, ih, hq, toBe, List.cons_append]

theorem beNat_lt (X : Bytes) : beNat X < 256 ^ X.length := by
  induction X using List.reverseRecOn with
  | nil => simp
  | append_singleton X b ih =>
    have hb := b.isLt
    rw [beNat_concat, List.length_append, List.length_singleton, pow_succ]
    omega

/-- Writing a number in `k` bytes and reading it back gives it modulo `256 ^ k`. -/
theorem beNat_toBe (k n : Nat) : beNat (toBe k n) = n % 256 ^ k := by
  induction k generalizing n with
  | zero => simp [toBe, Nat.mod_one]
  | succ k ih =>
    rw [toBe_succ, beNat_concat, ih, BitVec.toNat_ofNat, pow_succ' 256 k, Nat.mod_mul]
    omega

/-- Reading a byte sequence and writing it in as many bytes gives it back. -/
theorem toBe_beNat (X : Bytes) : toBe X.length (beNat X) = X := by
  induction X using List.reverseRecOn with
  | nil => rfl
  | append_singleton X b ih =>
    have hb := b.isLt
    have hq : (beNat X * 256 + b.toNat) / 256 = beNat X := by omega
    have hr : BitVec.ofNat 8 (beNat X * 256 + b.toNat) = b := by
      apply BitVec.eq_of_toNat_eq
      rw [BitVec.toNat_ofNat]
      omega
    rw [List.length_append, List.length_singleton, beNat_concat, toBe_succ, hq, hr, ih]

/-! ## The two widths of R9 -/

theorem be16_pair (b0 b1 : Byte) : be16 [b0, b1] = b0.toNat * 256 + b1.toNat := by
  simp [be16, beNat]

/-- Four bytes fit a circuit id, so `be32` loses nothing of the number they are. -/
theorem be32_toNat {X : Bytes} (h : X.length = 4) : (be32 X).toNat = beNat X := by
  have hX := beNat_lt X
  rw [h] at hX
  rw [be32, BitVec.toNat_ofNat]
  exact Nat.mod_eq_of_lt hX

theorem be32_quad_toNat (b0 b1 b2 b3 : Byte) : (be32 [b0, b1, b2, b3]).toNat =
    b0.toNat * 2 ^ 24 + b1.toNat * 2 ^ 16 + b2.toNat * 2 ^ 8 + b3.toNat := by
  rw [be32_toNat rfl]
  simp only [beNat, List.foldl_cons, List.foldl_nil]
  omega

theorem be32_toBe32 (c : CircId) : be32 (toBe32 c) = c := by
  apply BitVec.eq_of_toNat_eq
  rw [be32_toNat (toBe32_length c), toBe32, beNat_toBe]
  exact Nat.mod_eq_of_lt c.isLt

theorem be16_toBe16 {n : Nat} (h : n ≤ 65535) : be16 (toBe16 n) = n := by
  rw [be16, toBe16, beNat_toBe]
  exact Nat.mod_eq_of_lt (Nat.lt_succ_of_le h)

theorem toBe32_be32 {X : Bytes} (h : X.length = 4) : toBe32 (be32 X) = X := by
  rw [toBe32, be32_toNat h, show Config.circIdLen = X.length from h.symm, toBe_beNat]

theorem toBe16_be16 {X : Bytes} (h : X.length = 2) : toBe16 (be16 X) = X := by
  rw [toBe16, be16, show Config.varPrefixLen = X.length from h.symm, toBe_beNat]

/-- Settles O10: the byte-by-byte values, and both inverse laws from those of `toBe` and `beNat` at 4 and 2 bytes. -/
theorem bigEndianFields : Obligations.BigEndianFields :=
  ⟨be32_quad_toNat, be16_pair, be32_toBe32, fun _ => be16_toBe16, fun _ => toBe32_be32, fun _ => toBe16_be16⟩

end Sys2Proof.Machine
end

section
/-! PROOFS. The host's requests, by what `State.admits` answers. -/

namespace Sys2Proof.Machine

/-- A request that is not admitted is refused, for the reason it is not admitted. -/
theorem State.presentDecode_error {s : State} {W : Bytes} {r : Refusal} (h : s.admits W.length = .error r) :
    s.presentDecode W = .refused r := by
  rw [State.presentDecode, h]

theorem State.presentEncode_error {s : State} {W : Bytes} {r : Refusal} (h : s.admits W.length = .error r) (c : CircId)
    (m : Command) : s.presentEncode c m W = .refused r := by
  rw [State.presentEncode, h]

/-- Reset abandons the transaction in progress (R142). -/
theorem State.applyReset_not_inProgress (s : State) : ¬ s.applyReset.inProgress := State.not_inProgress rfl rfl

/-- An admitted DECODE leaves its request in the registers and the input, pending. -/
theorem State.presentDecode_places {s : State} {W : Bytes} (h : s.admits W.length = .ok ()) :
    ∃ t, s.presentDecode W = .next t ∧ t.op = 0#1 ∧ t.input = W ∧ t.pending = true :=
  ⟨_, State.presentDecode_ok h, rfl, s.loadInput_input W 0 s.reqCircId s.reqCmd true, rfl⟩

/-- An admitted ENCODE leaves its request in the registers and the input, pending. -/
theorem State.presentEncode_places {s : State} {W : Bytes} (h : s.admits W.length = .ok ()) (c : CircId) (m : Command) :
    ∃ t, s.presentEncode c m W = .next t ∧ t.op = 1#1 ∧ t.reqCircId = c ∧ t.reqCmd = m ∧ t.input = W ∧ t.pending = true :=
  ⟨_, State.presentEncode_ok h c m, rfl, rfl, rfl, s.loadInput_input W 1 c m true, rfl⟩

/-- Settles O57: a request is refused or placed as `State.admits` answers, during a transaction, for a length above `LEN_W`,
otherwise, and after a reset. -/
theorem requestsWithoutMeaningAreRefused : Obligations.RequestsWithoutMeaningAreRefused := by
  refine ⟨fun v => rfl, fun s c m W => ⟨fun hbusy => ?_, fun hp hs hlong => ?_, fun hp hs hlen => ?_, fun hlen => ?_⟩⟩
  · have h := State.admits_busy hbusy W.length
    exact ⟨State.presentDecode_error h, State.presentEncode_error h c m⟩
  · have h := State.admits_long (State.not_inProgress hs hp) hlong
    exact ⟨State.presentDecode_error h, State.presentEncode_error h c m⟩
  · have h := State.admits_ok.2 ⟨State.not_inProgress hs hp, hlen⟩
    exact ⟨State.presentDecode_places h, State.presentEncode_places h c m⟩
  · have h := State.admits_ok.2 ⟨s.applyReset_not_inProgress, hlen⟩
    exact ⟨⟨_, State.presentDecode_ok h⟩, _, State.presentEncode_ok h c m⟩

end Sys2Proof.Machine
end

section
/-! PROOFS. What an answer and a pass of Laws/Exec.lean leave of the state: the frame of every instruction, and the invariant of
10_state.md R13, kept by every step and holding after reset. -/

namespace Sys2Proof.Machine

theorem Mem.read_eq_none {m : Mem} {a : Nat} (h : ∀ x ∈ m, x.1 < a) : m.read a = none := by
  induction m with
  | nil => rfl
  | cons x m ih =>
    have hx := h x List.mem_cons_self
    rw [Mem.read_cons, if_neg (by omega), ih fun y hy => h y (List.mem_cons_of_mem x hy)]

/-- The bytes of IBUF are part of the request side. -/
theorem SameRequestSide.ibufByte {s t : State} (h : SameRequestSide s t) (a : Nat) : t.ibufByte a = s.ibufByte a := by
  obtain ⟨-, -, -, -, hb, -, hr⟩ := h
  rw [State.ibufByte, State.ibufByte, hb, hr]

/-! ## An answer -/

theorem statusCode_le (k : ErrorKind) : (statusCode k).toNat ≤ 4 := by
  cases k <;> simp [statusCode]

theorem Answered.finished {s t : State} (h : Answered s t) : Finished s t := by
  cases h with
  | error k => exact s.respond_finished (statusCode k)
  | cell c | frame W | frameTail T => exact s.respond_finished 0

theorem Answered.status_le {s t : State} (h : Answered s t) : t.status.toNat ≤ 4 := by
  cases h with
  | error k => exact statusCode_le k
  | cell c | frame W | frameTail T => exact Nat.zero_le 4

/-- OUT_LEN fits its register, also where an error leaves it unspecified (R24). -/
theorem Answered.outLen_lt {s t : State} (h : Answered s t) : t.outLen < 2 ^ Config.lenW := by
  have L := Config.two_pow_lenW_ge
  cases h with
  | error k => exact Nat.mod_lt _ (by omega)
  | cell c hc => rw [State.answerCell_outLen]; omega
  | frame W hW => rw [State.answerFrame_outLen]; omega
  | frameTail T hT => rw [State.answerFrameTail_outLen, Config.hdrLen]; omega

/-- No byte of OBUF at or above OUT_LEN is defined (R25, R44). -/
theorem Answered.obuf_addr {s t : State} (h : Answered s t) : ∀ x ∈ t.obuf, x.1 < t.outLen := by
  intro x hx
  cases h with
  | error k => cases hx
  | cell c | frame W => simpa using (Mem.addr_of_mem_cellsAt hx).2
  | frameTail T => exact (Mem.mem_below.1 hx).2

theorem Answered.obuf_wf {s t : State} (h : Answered s t) (hs : s.obuf.wf) : t.obuf.wf := by
  cases h with
  | error k => exact List.Pairwise.nil
  | cell c => exact Mem.wf_cellsAt 0 c.body
  | frame W => exact Mem.wf_cellsAt 0 W
  | frameTail T => exact Mem.wf_below (Mem.wf_writeBytes hs _ T) _

/-! ## A pass to the next stage -/

theorem Passed.sameRequestSide {i : Instr} {s t : State} (h : Passed i s t) : SameRequestSide s t := by
  cases h <;> exact SameRequestSide.refl s

theorem Passed.sameResponseRegs {i : Instr} {s t : State} (h : Passed i s t) : SameResponseRegs s t := by
  cases h <;> exact ⟨rfl, rfl, rfl, rfl, rfl, rfl, rfl, rfl⟩

theorem Passed.stage_ne_idle {i : Instr} {s t : State} (h : Passed i s t) : t.stage ≠ .idle := by
  cases h with
  | @hdrParse _ c m | @encHdr _ m => cases isVar m <;> simp
  | valLen | valCirc | validate => simp

/-- Of the stages that pass on only ENC.HDR writes OBUF, at its five bytes (R39, R100). -/
theorem Passed.obuf_cases {i : Instr} {s t : State} (h : Passed i s t) :
    t.obuf = s.obuf ∨ ∃ m, i = .encHdr m ∧ t.obuf = s.obuf.writeBytes 0 (Machine.encHdr s.reqCircId m) := by
  cases h with
  | hdrParse | valLen | valCirc | validate => exact .inl rfl
  | encHdr => exact .inr ⟨_, rfl, rfl⟩

theorem Passed.obuf_read {i : Instr} {s t : State} (h : Passed i s t) {a : Nat} (ha : (∃ m, i = .encHdr m) → 5 ≤ a) :
    t.obuf.read a = s.obuf.read a := by
  obtain ho | ⟨m, hi, ho⟩ := h.obuf_cases
  · rw [ho]
  · have := ha ⟨m, hi⟩
    rw [ho, Mem.read_writeBytes, encHdr_length, if_neg (by omega)]

theorem Passed.obuf_wf {i : Instr} {s t : State} (h : Passed i s t) (hs : s.obuf.wf) : t.obuf.wf := by
  obtain ho | ⟨m, -, ho⟩ := h.obuf_cases
  · exact ho ▸ hs
  · exact ho ▸ Mem.wf_writeBytes hs 0 _

/-- The header's five addresses always exist, since `LEN_W` is at least 17 (R8). -/
theorem Passed.obuf_addr {i : Instr} {s t : State} (h : Passed i s t) (hs : ∀ x ∈ s.obuf, x.1 < 2 ^ Config.lenW) :
    ∀ x ∈ t.obuf, x.1 < 2 ^ Config.lenW := by
  have L := Config.two_pow_lenW_ge
  obtain ho | ⟨m, -, ho⟩ := h.obuf_cases
  · exact ho ▸ hs
  · exact ho ▸ Mem.addr_lt_writeBytes hs (by rw [encHdr_length]; omega)

/-- Settles O49: an answer is a finished transaction with nothing defined from OUT_LEN on, a pass keeps the response side but for
ENC.HDR's bytes, and an instruction that gives a next state does one of the two. -/
theorem frameOfEveryInstruction : Obligations.FrameOfEveryInstruction := by
  intro i s t h
  obtain ha | hp := exec_next_cases h
  · refine ⟨ha.finished.1, ha.finished.1.ibufByte, .inl ⟨ha.finished, ha.status_le, fun a hle => Mem.read_eq_none fun x hx => ?_⟩⟩
    exact Nat.lt_of_lt_of_le (ha.obuf_addr x hx) hle
  · exact ⟨hp.sameRequestSide, hp.sameRequestSide.ibufByte, .inr ⟨hp.stage_ne_idle, hp.sameResponseRegs, fun a => hp.obuf_read⟩⟩

/-! ## The instruction a stage runs -/

@[simp] theorem selCmd_selOf (o : BitVec 1) (m : Command) : selCmd (selOf o m) = m := by
  simp only [selCmd, selOf, BitVec.extractLsb'_append_eq_right]

/-- What runs at a stage is a micro-operation of that stage, for the command in `SEL` (R28, R68). -/
theorem decodeUop_inv {st : Stage} {sel : BitVec 9} {i : Instr} (h : decodeUop st sel = .ok i) :
    ∃ o : MicroOp, o.stage = st ∧ i = o.instr (selCmd sel) := by
  unfold decodeUop at h
  split at h
  next r hr =>
    have hm := List.find?_some hr
    cases h
    exact ⟨r.op, by simpa using (Bool.and_eq_true_iff.1 hm).1, rfl⟩
  next => cases h

/-- What is selected is a whole operation while the cursor is idle, else a micro-operation of the stage for the governing command. -/
theorem State.decode_selector_inv {s : State} {i : Instr} (h : decodeSelector s.selector = .ok i) :
    (s.stage = .idle ∧ i = decodeOp s.op) ∨ ∃ o : MicroOp, o.stage = s.stage ∧ i = o.instr s.governing := by
  by_cases hs : s.stage = .idle
  · rw [State.selector, if_pos hs] at h
    cases h
    exact .inl ⟨hs, rfl⟩
  · rw [State.selector, if_neg hs] at h
    simpa using Or.inr (decodeUop_inv h)

/-! ## The invariant -/

/-- VAL.LEN and then VAL.CIRC is VALIDATE (R97). -/
theorem validate_of_valLen {c : CircId} {m : Command} {n : Nat} (h : valLen m n = .ok ()) : validate c m n = valCirc c m := by
  rw [validate, h]

/-- An instruction of a whole operation passes nothing on. -/
theorem not_passed_decodeOp {op : BitVec 1} {s t : State} : ¬ Passed (decodeOp op) s t := by
  intro h
  unfold decodeOp at h
  split at h <;> cases h

/-- A stage that passes on leaves the next one what its checks gave (R28, R99): HDR.PARSE the transients it read, an ENCODE's stage the
verdict on `REQ_CMD`, which is its governing command. -/
theorem Passed.stageInv {i : Instr} {s t : State} (h : Passed i s t) (hd : decodeSelector s.selector = .ok i)
    (hs : s.StageInv) : t.StageInv := by
  obtain ⟨-, rfl⟩ | ⟨o, ho, rfl⟩ := State.decode_selector_inv hd
  · exact absurd h not_passed_decodeOp
  unfold State.StageInv at hs
  rw [← ho] at hs
  cases o with
  | extFix | extVar | encVar | encFix => cases h
  | hdrParse =>
    cases h with
    | @hdrParse _ c m hp => cases hm : isVar m <;> exact ⟨hs, hp, hm⟩
  | valLen =>
    rw [State.governing_encode hs] at h
    cases h with
    | valLen hv => exact ⟨hs, hv⟩
  | valCirc =>
    rw [State.governing_encode hs.1] at h
    cases h with
    | valCirc hv => exact ⟨hs.1, (validate_of_valLen hs.2).trans hv⟩
  | validate =>
    rw [State.governing_encode hs] at h
    cases h with
    | validate hv => exact ⟨hs, hv⟩
  | encHdr =>
    rw [State.governing_encode hs.1] at h
    cases h with
    | encHdr => cases hm : isVar s.reqCmd <;> exact ⟨hs.1, hs.2, hm⟩

/-- An answer leaves the request side as it was, the cursor idle and a response that fits. -/
theorem State.Inv.of_answered {s t : State} (hs : s.Inv) (h : Answered s t) : t.Inv := by
  obtain ⟨⟨-, -, -, hlen, hibuf, hver, -⟩, hidle, hcirc, hcmd, -, -, -⟩ := h.finished
  exact {
    version := hver.trans hs.version
    inLen := hlen ▸ hs.inLen
    outLen := h.outLen_lt
    status := h.status_le
    ibufWf := hibuf ▸ hs.ibufWf
    obufWf := h.obuf_wf hs.obufWf
    ibufAddr := hibuf ▸ hs.ibufAddr
    obufAddr := fun x hx => (h.obuf_addr x hx).trans h.outLen_lt
    stage := by rw [State.StageInv, hidle]; exact ⟨hcirc, hcmd⟩
    pending := fun hne => absurd hidle hne }

/-- A pass leaves all but the cursor, the transients and OBUF as it was, and a request presented. -/
theorem State.Inv.of_passed {i : Instr} {s t : State} (hs : s.Inv) (h : Passed i s t) (hp : s.inProgress)
    (hd : decodeSelector s.selector = .ok i) : t.Inv := by
  obtain ⟨-, -, -, hlen, hibuf, hver, -⟩ := h.sameRequestSide
  obtain ⟨hstatus, -, -, -, hout, -, -, hpend⟩ := h.sameResponseRegs
  exact {
    version := hver.trans hs.version
    inLen := hlen ▸ hs.inLen
    outLen := hout ▸ hs.outLen
    status := hstatus ▸ hs.status
    ibufWf := hibuf ▸ hs.ibufWf
    obufWf := h.obuf_wf hs.obufWf
    ibufAddr := hibuf ▸ hs.ibufAddr
    obufAddr := h.obuf_addr hs.obufAddr
    stage := h.stageInv hd hs.stage
    pending := fun _ => hpend.trans (hp.elim id hs.pending) }

/-- Settles O53: a step that waits changes nothing; any other runs the instruction its selector decodes to, which answers or passes on. -/
theorem invariantIsKept : Obligations.InvariantIsKept := by
  intro s t hs h
  obtain ⟨-, rfl⟩ | ⟨i, hf, he⟩ := step_next_inv h
  · exact hs
  obtain ⟨-, hp, hd⟩ := fetch_inv hf
  obtain ha | hpass := exec_next_cases he
  · exact hs.of_answered ha
  · exact hs.of_passed hpass hp hd

/-- Settles O54: the buffers list nothing and the lengths are 0; `applyReset` is the reset condition but for the counters. -/
theorem resetHasTheInvariant : Obligations.ResetHasTheInvariant := by
  have L : 0 < 2 ^ Config.lenW := Nat.two_pow_pos _
  refine ⟨⟨rfl, L, L, Nat.zero_le 4, .nil, .nil, nofun, nofun, ⟨rfl, rfl⟩, fun h => absurd rfl h⟩, rfl, rfl, rfl, fun s => ?_⟩
  exact ⟨rfl, rfl, rfl, rfl, rfl⟩

end Sys2Proof.Machine
end

section
/-! PROOFS. The words of the table's rows, and what a step runs. -/

namespace Sys2Proof.Machine

/-- Settles O3: each word is looked up in the finite table of rows. -/
theorem specWordsDecode : Obligations.SpecWordsDecode := by
  unfold Obligations.SpecWordsDecode
  decide

/-- Inside a transaction the selector is `SEL` at the stage (R28, R68). -/
theorem State.selector_at_stage {s : State} (hs : s.stage ≠ .idle) {o : BitVec 1} {m : Command} (ho : s.op = o)
    (hg : s.governing = m) : s.selector = .uop s.stage (selOf o m) := by
  rw [State.selector, if_neg hs, ho, hg]

/-- The command HDR.PARSE reads is byte 4 of the input (R85). -/
theorem hdrParse_cmd {s : State} {c : CircId} {m : Command} (h : hdrParse s.input = .ok (c, m)) : m = s.ibufByte 4 := by
  rw [hdrParse_eq] at h
  split at h
  next => cases h
  next hl =>
    cases h
    exact s.input_getElem 4 (by omega)

/-- A DECODE under way is at D0, or behind it with the transients HDR.PARSE read. -/
theorem State.StageInv.decode_cases {s : State} (h : s.StageInv) (hs : s.stage ≠ .idle) (ho : s.op = 0#1) :
    s.stage = .d0 ∨ (s.stage ≠ .d0 ∧ hdrParse s.input = .ok (s.circ, s.cmd)) := by
  unfold State.StageInv at h
  split at h
  next hst => exact absurd hst hs
  next hst => exact .inl hst
  next hst => exact .inr ⟨by simp [hst], h.2.1⟩
  next hst => exact .inr ⟨by simp [hst], h.2.1⟩
  all_goals simp [ho] at h

/-- The command of a DECODE under way is byte 4 of the input at every stage (R68). -/
theorem State.Inv.governing_decode {s : State} (h : s.Inv) (hs : s.stage ≠ .idle) (ho : s.op = 0#1) (hn : 5 ≤ s.inLen) :
    s.governing = s.ibufByte 4 := by
  obtain hd0 | ⟨hd0, hp⟩ := h.stage.decode_cases hs ho
  · exact State.governing_d0 ho hd0 hn
  · rw [State.governing_decode ho hd0, hdrParse_cmd hp]

theorem step_version {s : State} (hv : s.linkVersion ≠ 4#8) : step s = .refused (.linkVersion s.linkVersion) := by
  have h : s.fetch = .error (.linkVersion s.linkVersion) := if_neg hv
  rw [step, h]

/-- Settles O5: what is fetched, by version and by whether a transaction is in progress; the selector, by the stage; and the command in
it, by the operation. -/
theorem stepRunsDecodedInstruction : Obligations.StepRunsDecodedInstruction := by
  intro s
  refine ⟨fun i hv hp hd => step_of_fetch (fetch_of_decode hv hp hd), fun hv hp hs => step_waits hv (State.not_inProgress hs hp),
    step_version, fun hs => if_pos hs, fun hs ho hn => ?_, fun hv hs ho => ?_, fun hs hd0 ho => ?_, fun hI hs ho hn => ?_,
    fun hs ho => ?_⟩
  · have h := State.selector_at_stage (by simp [hs]) ho (State.governing_d0 ho hs hn)
    rw [hs] at h
    exact h
  · exact step_at_stage hv hs (by decide) ho rfl (decode_d0 _)
  · exact State.selector_at_stage hs ho (State.governing_decode ho hd0)
  · exact State.selector_at_stage hs ho (hI.governing_decode hs ho hn)
  · exact State.selector_at_stage hs ho (State.governing_encode ho)

end Sys2Proof.Machine
end

section
/-! PROOFS. The two operations as functions of the request: the response of each is one of the input and, for ENCODE, of the circuit id
and the command (R120). -/

namespace Sys2Proof.Machine

/-- The response that answers what `decode` gives (R123). -/
def decodeResponse : Except DecodeError ChannelCell → Response
  | .error e => .error e.kind
  | .ok c => .cell c

/-- The response that answers what `encode` gives (R124). -/
def encodeResponse : Except EncodeError Bytes → Response
  | .error e => .error e.kind
  | .ok W => .frame W

theorem execDecode_response {s : State} (ho : s.op = 0#1) :
    ∃ t, execDecode s = .next t ∧ t.response = some (decodeResponse (decodeCell s.input)) := by
  unfold execDecode
  cases decodeCell s.input with
  | error e => exact ⟨_, rfl, s.raise_response e.kind⟩
  | ok c => exact ⟨_, rfl, s.answerCell_response c ho⟩

theorem execEncode_response {s : State} (ho : s.op = 1#1) :
    ∃ t, execEncode s = .next t ∧ t.response = some (encodeResponse (encodeCell s.reqCircId s.reqCmd s.input)) := by
  unfold execEncode
  cases encodeCell s.reqCircId s.reqCmd s.input with
  | error e => exact ⟨_, rfl, s.raise_response e.kind⟩
  | ok W => exact ⟨_, rfl, s.answerFrame_response W ho⟩

/-- The response to the request a state presents, from the registers and bytes the operation reads. -/
def State.requestResponse (s : State) : Response :=
  if s.op = 0#1 then decodeResponse (decodeCell s.input) else encodeResponse (encodeCell s.reqCircId s.reqCmd s.input)

theorem exec_decodeOp_response (s : State) : ∃ t, exec (decodeOp s.op) s = .next t ∧ t.response = some s.requestResponse := by
  unfold State.requestResponse
  obtain ho | ho := BitVec.eq_zero_or_eq_one s.op
  · simpa [ho, decodeOp, exec] using execDecode_response ho
  · simpa [ho, decodeOp, exec] using execEncode_response ho

theorem SameRequest.input_eq {s t : State} (h : SameRequest s t) : s.input = t.input := by
  obtain ⟨-, hl, hb, -⟩ := h
  rw [State.input, State.input, ← hl]
  exact List.map_congr_left fun a ha => hb a (List.mem_range.1 ha)

theorem SameRequest.requestResponse_eq {s t : State} (h : SameRequest s t) : s.requestResponse = t.requestResponse := by
  have hi := h.input_eq
  obtain ⟨ho, -, -, he⟩ := h
  unfold State.requestResponse
  rw [← ho, ← hi]
  obtain h0 | h1 := BitVec.eq_zero_or_eq_one s.op
  · rw [if_pos h0, if_pos h0]
  · obtain ⟨hc, hm⟩ := he h1
    rw [hc, hm]

/-- Settles O50: each answers with the response to its request, and the same request has the same one. -/
theorem responseDependsOnRequestOnly : Obligations.ResponseDependsOnRequestOnly := by
  intro s t hvs hvt hss hst hps hpt hr
  obtain ⟨s', hs', hrs⟩ := exec_decodeOp_response s
  obtain ⟨t', ht', hrt⟩ := exec_decodeOp_response t
  refine ⟨s', t', _, ?_, ?_, hrs, hr.requestResponse_eq ▸ hrt⟩
  · rw [step_of_fetch (fetch_presented hvs hss hps), hs']
  · rw [step_of_fetch (fetch_presented hvt hst hpt), ht']

end Sys2Proof.Machine
end

section
/-! PROOFS. The stages in order are the transaction (10_state.md R28): what is left of it at each stage, from the last one back. -/

namespace Sys2Proof.Machine

/-! ## OBUF after the header and the rest of the frame -/

theorem Mem.cellsAt_append (a : Nat) (v w : Bytes) :
    Mem.cellsAt a (v ++ w) = Mem.cellsAt a v ++ Mem.cellsAt (a + v.length) w := by
  induction v generalizing a with
  | nil => rfl
  | cons b v ih => simp [Mem.cellsAt, ih, Nat.add_assoc, Nat.add_comm 1]

theorem Mem.below_append (m n : Mem) (b : Nat) : Mem.below (m ++ n) b = m.below b ++ n.below b := List.filter_append ..

theorem Mem.below_eq_self {m : Mem} {b : Nat} (h : ∀ x ∈ m, x.1 < b) : m.below b = m :=
  List.filter_eq_self.2 fun x hx => decide_eq_true (h x hx)

theorem Mem.below_eq_nil {m : Mem} {b : Nat} (h : ∀ x ∈ m, b ≤ x.1) : m.below b = [] :=
  List.filter_eq_nil_iff.2 fun x hx => by simpa using h x hx

/-- Cut at its end, a write keeps what lies below it and the bytes written. -/
theorem Mem.below_writeBytes_end (m : Mem) (a : Nat) (v : Bytes) :
    (m.writeBytes a v).below (a + v.length) = m.below a ++ Mem.cellsAt a v := by
  have h1 : (m.below a).below (a + v.length) = m.below a := Mem.below_eq_self fun x hx => by
    have := (Mem.mem_below.1 hx).2
    omega
  have h2 : (Mem.cellsAt a v).below (a + v.length) = Mem.cellsAt a v :=
    Mem.below_eq_self fun x hx => (Mem.addr_of_mem_cellsAt hx).2
  have h3 : (m.atOrAbove (a + v.length)).below (a + v.length) = [] :=
    Mem.below_eq_nil fun x hx => (Mem.mem_atOrAbove.1 hx).2
  rw [Mem.writeBytes, Mem.below_append, Mem.below_append, h1, h2, h3, List.append_nil]

/-- A write from address 0 on, cut at its end, leaves nothing else. -/
theorem Mem.below_writeBytes_zero (m : Mem) (v : Bytes) : (m.writeBytes 0 v).below v.length = Mem.cellsAt 0 v := by
  have h := Mem.below_writeBytes_end m 0 v
  rwa [Nat.zero_add, Mem.below_eq_nil fun x _ => Nat.zero_le x.1, List.nil_append] at h

/-- The header written at `E2` and the tail behind it are the whole frame, whatever OBUF held. -/
theorem Mem.header_then_tail (m : Mem) {H : Bytes} (hH : H.length = 5) (T : Bytes) :
    ((m.writeBytes 0 H).writeBytes 5 T).below (5 + T.length) = Mem.cellsAt 0 (H ++ T) := by
  rw [Mem.below_writeBytes_end, ← hH, Mem.below_writeBytes_zero, Mem.cellsAt_append, Nat.zero_add]

/-! ## A run of stages -/

/-- The transaction of the request in `s`, under way at a stage. -/
def State.atStage (s : State) (st : Stage) : State := { s with pending := true, stage := st }

@[simp] theorem State.atStage_reqCircId (s : State) (st : Stage) : (s.atStage st).reqCircId = s.reqCircId := rfl
@[simp] theorem State.atStage_inLen (s : State) (st : Stage) : (s.atStage st).inLen = s.inLen := rfl
@[simp] theorem State.atStage_input (s : State) (st : Stage) : (s.atStage st).input = s.input := rfl

theorem State.beginStages_eq (s : State) : s.beginStages = s.atStage (if s.op = 0#1 then .d0 else .e0) := rfl

theorem State.beginComposite_eq (s : State) : s.beginComposite = s.atStage (if s.op = 0#1 then .d0 else .e01) := rfl

/-- The stage that answers is the last one. -/
theorem runStages_answer {s t : State} (h : step s = .next t) (ht : t.stage = .idle) (n : Nat) : runStages (n + 1) s = .next t := by
  rw [runStages, h]
  exact if_pos ht

/-- A stage that passes on leaves the rest of the run to the next. -/
theorem runStages_pass {s t : State} (h : step s = .next t) (ht : t.stage ≠ .idle) (n : Nat) :
    runStages (n + 1) s = runStages n t := by
  rw [runStages, h]
  exact if_neg ht

/-! ## DECODE -/

/-- The response of a DECODE whose header gave `c` and `m`, by what the extraction gives (R107). -/
def State.answerBody (s : State) (c : CircId) (m : Command) : Except DecodeError Bytes → State
  | .error e => s.raise e.kind
  | .ok body => s.answerCell ⟨c, m, body⟩

theorem State.answerBody_stage (s : State) (c : CircId) (m : Command) (x : Except DecodeError Bytes) :
    (s.answerBody c m x).stage = .idle := by
  cases x <;> rfl

/-- The state behind D0: the transients HDR.PARSE read. -/
def State.atExtraction (s : State) (c : CircId) (m : Command) (st : Stage) : State := { s.atStage st with circ := c, cmd := m }

theorem execExtFix_atExtraction (s : State) (c : CircId) (m : Command) (st : Stage) :
    execExtFix m (s.atExtraction c m st) = .next (s.answerBody c m (extFix s.input)) := by
  rw [execExtFix, show (s.atExtraction c m st).input = s.input from rfl]
  cases extFix s.input <;> rfl

theorem execExtVar_atExtraction (s : State) (c : CircId) (m : Command) (st : Stage) :
    execExtVar m (s.atExtraction c m st) = .next (s.answerBody c m (extVar s.input)) := by
  rw [execExtVar, show (s.atExtraction c m st).input = s.input from rfl]
  cases extVar s.input <;> rfl

/-- At an extraction's stage the micro-operation of the stage runs, for the command HDR.PARSE read. -/
theorem step_atExtraction {s : State} (hv : s.linkVersion = 4#8) (ho : s.op = 0#1) (c : CircId) {m : Command} {st : Stage}
    (hn : st ≠ .idle) (hd : st ≠ .d0) {i : Instr} (h : decodeSelector (.uop st (selOf 0 m)) = .ok i) :
    step (s.atExtraction c m st) = exec i (s.atExtraction c m st) :=
  step_at_stage (s := s.atExtraction c m st) hv rfl hn ho (State.governing_decode ho hd) h

theorem execDecode_error {s : State} {e : DecodeError} (h : hdrParse s.input = .error e) : execDecode s = .next (s.raise e.kind) := by
  rw [execDecode, decodeCell, h]

theorem execDecode_extract {s : State} {c : CircId} {m : Command} (h : hdrParse s.input = .ok (c, m)) :
    execDecode s = .next (s.answerBody c m (if isVar m then extVar s.input else extFix s.input)) := by
  simp only [execDecode, decodeCell, h]
  cases (if isVar m then extVar s.input else extFix s.input) <;> rfl

/-- Behind D0 the extraction that the classification chooses answers. -/
theorem runStages_extract {s : State} (hv : s.linkVersion = 4#8) (ho : s.op = 0#1) {c : CircId} {m : Command}
    (hp : hdrParse s.input = .ok (c, m)) (n : Nat) :
    runStages (n + 1) (s.atExtraction c m (if isVar m then .d3v else .d3f)) = execDecode s := by
  rw [execDecode_extract hp]
  cases hm : isVar m with
  | true =>
    have hstep := step_atExtraction hv ho c (by decide) (by decide) (decode_d3v m hm)
    exact runStages_answer (hstep.trans (execExtVar_atExtraction s c m _)) (s.answerBody_stage ..) n
  | false =>
    have hstep := step_atExtraction hv ho c (by decide) (by decide) (decode_d3f m hm)
    exact runStages_answer (hstep.trans (execExtFix_atExtraction s c m _)) (s.answerBody_stage ..) n

/-- From D0: the header, then the extraction. -/
theorem runStages_decode {s : State} (hv : s.linkVersion = 4#8) (ho : s.op = 0#1) (n : Nat) :
    runStages (n + 2) (s.atStage .d0) = execDecode s := by
  have hstep : step (s.atStage .d0) = execHdrParse (s.atStage .d0) :=
    step_at_stage (s := s.atStage .d0) (st := .d0) hv rfl (by decide) ho rfl (decode_d0 _)
  rw [execHdrParse, s.atStage_input] at hstep
  cases hp : hdrParse s.input with
  | error e =>
    rw [hp] at hstep
    rw [execDecode_error hp]
    exact runStages_answer hstep rfl _
  | ok cm =>
    rw [hp] at hstep
    rw [← runStages_extract hv ho hp n]
    exact runStages_pass hstep (by cases isVar cm.2 <;> exact nofun) _

/-! ## ENCODE -/

/-- At an ENCODE's stage the micro-operation of the stage runs, for `REQ_CMD`. -/
theorem step_encode_stage {s : State} (hv : s.linkVersion = 4#8) (ho : s.op = 1#1) (st : Stage) (hs : s.stage = st)
    (hn : st ≠ .idle) {i : Instr} (h : decodeSelector (.uop st (selOf 1 s.reqCmd)) = .ok i) : step s = exec i s :=
  step_at_stage hv hs hn ho (State.governing_encode ho) h

/-- The response of an ENCODE whose checks passed, by the header and what the payload encoding gives (R108). -/
def State.answerPayload (s : State) (H : Bytes) : Except EncodeError Bytes → State
  | .error e => s.raise e.kind
  | .ok T => s.answerFrame (H ++ T)

theorem State.answerPayload_stage (s : State) (H : Bytes) (x : Except EncodeError Bytes) : (s.answerPayload H x).stage = .idle := by
  cases x <;> rfl

/-- The state behind E2: the header in OBUF. -/
def State.atPayload (s : State) (st : Stage) : State :=
  { s.atStage st with obuf := s.obuf.writeBytes 0 (encHdr s.reqCircId s.reqCmd) }

/-- With the header in OBUF already, the tail's response is the whole frame's. -/
theorem State.atPayload_answerFrameTail (s : State) (st : Stage) (T : Bytes) :
    (s.atPayload st).answerFrameTail T = s.answerFrame (encHdr s.reqCircId s.reqCmd ++ T) := by
  unfold State.answerFrameTail State.answerFrame
  rw [List.length_append, encHdr_length, ← Mem.header_then_tail s.obuf (encHdr_length _ _) T]
  rfl

theorem execEncVar_atPayload (m : Command) (s : State) (st : Stage) :
    execEncVar m (s.atPayload st) = .next (s.answerPayload (encHdr s.reqCircId s.reqCmd) (encVar s.input)) := by
  rw [execEncVar, show (s.atPayload st).input = s.input from rfl]
  cases encVar s.input with
  | error e => rfl
  | ok T => exact congrArg _ (s.atPayload_answerFrameTail st T)

theorem execEncFix_atPayload (m : Command) {s : State} (hn : s.inLen ≤ 509) (st : Stage) :
    execEncFix m (s.atPayload st) = .next (s.answerPayload (encHdr s.reqCircId s.reqCmd) (.ok (encFix s.input))) := by
  have h : ¬ Config.cellDataLen < (s.atPayload st).inLen := Nat.not_lt.2 hn
  rw [execEncFix, if_neg h]
  exact congrArg _ (s.atPayload_answerFrameTail st _)

theorem execEncode_error {s : State} {e : EncodeError} (h : validate s.reqCircId s.reqCmd s.inLen = .error e) :
    execEncode s = .next (s.raise e.kind) := by
  rw [execEncode, encodeCell, s.input_length, h]

theorem execEncode_payload {s : State} (h : validate s.reqCircId s.reqCmd s.inLen = .ok ()) :
    execEncode s = .next (s.answerPayload (encHdr s.reqCircId s.reqCmd)
      (if isVar s.reqCmd then encVar s.input else .ok (encFix s.input))) := by
  rw [execEncode, encodeCell, s.input_length, h]
  cases hm : isVar s.reqCmd with
  | true => cases encVar s.input <;> rfl
  | false => rfl

/-- Behind E2 the payload encoding that the classification chooses answers. -/
theorem runStages_payload {s : State} (hv : s.linkVersion = 4#8) (ho : s.op = 1#1)
    (h : validate s.reqCircId s.reqCmd s.inLen = .ok ()) (n : Nat) :
    runStages (n + 1) (s.atPayload (if isVar s.reqCmd then .e3v else .e3f)) = execEncode s := by
  rw [execEncode_payload h]
  cases hm : isVar s.reqCmd with
  | true =>
    have hstep := step_encode_stage (s := s.atPayload .e3v) hv ho .e3v rfl (by decide) (decode_e3v s.reqCmd hm)
    exact runStages_answer (hstep.trans (execEncVar_atPayload s.reqCmd s _)) (s.answerPayload_stage ..) n
  | false =>
    have hstep := step_encode_stage (s := s.atPayload .e3f) hv ho .e3f rfl (by decide) (decode_e3f s.reqCmd hm)
    exact runStages_answer (hstep.trans (execEncFix_atPayload s.reqCmd (validate_length h hm) _)) (s.answerPayload_stage ..) n

/-- From E2: the header, then the payload. -/
theorem runStages_encHdr {s : State} (hv : s.linkVersion = 4#8) (ho : s.op = 1#1)
    (h : validate s.reqCircId s.reqCmd s.inLen = .ok ()) (n : Nat) : runStages (n + 2) (s.atStage .e2) = execEncode s := by
  have hstep := step_encode_stage (s := s.atStage .e2) hv ho .e2 rfl (by decide) (decode_e2 s.reqCmd)
  rw [← runStages_payload hv ho h n]
  exact runStages_pass hstep (by cases isVar s.reqCmd <;> exact nofun) _

/-- What a check of the validator leaves of a transaction: the error response, or the cursor at the stage behind it. -/
def State.checked (s : State) (next : Stage) : Except EncodeError Unit → State
  | .error e => s.raise e.kind
  | .ok () => s.atStage next

theorem execValLen_atStage (m : Command) (s : State) (st : Stage) :
    execValLen m (s.atStage st) = .next (s.checked .e1 (valLen m s.inLen)) := by
  rw [execValLen, s.atStage_inLen]
  cases valLen m s.inLen <;> rfl

theorem execValCirc_atStage (m : Command) (s : State) (st : Stage) :
    execValCirc m (s.atStage st) = .next (s.checked .e2 (valCirc s.reqCircId m)) := by
  rw [execValCirc, s.atStage_reqCircId]
  cases valCirc s.reqCircId m <;> rfl

theorem execValidate_atStage (m : Command) (s : State) (st : Stage) :
    execValidate m (s.atStage st) = .next (s.checked .e2 (validate s.reqCircId m s.inLen)) := by
  rw [execValidate, s.atStage_reqCircId, s.atStage_inLen]
  cases validate s.reqCircId m s.inLen <;> rfl

/-- A check whose error is VALIDATE's ends the transaction with it; one that passes leaves the rest to the next stage. -/
theorem runStages_checked {s : State} {st next : Stage} {x : Except EncodeError Unit} {n : Nat} (hn : next ≠ .idle)
    (hstep : step (s.atStage st) = .next (s.checked next x))
    (herror : ∀ e, x = .error e → validate s.reqCircId s.reqCmd s.inLen = .error e)
    (hok : x = .ok () → runStages n (s.atStage next) = execEncode s) : runStages (n + 1) (s.atStage st) = execEncode s := by
  cases x with
  | error e =>
    rw [execEncode_error (herror e rfl)]
    exact runStages_answer hstep rfl n
  | ok u =>
    rw [← hok rfl]
    exact runStages_pass hstep hn n

/-- From E1, VAL.LEN having passed: the circuit-id policy, then the rest. -/
theorem runStages_valCirc {s : State} (hv : s.linkVersion = 4#8) (ho : s.op = 1#1) (h : valLen s.reqCmd s.inLen = .ok ())
    (n : Nat) : runStages (n + 3) (s.atStage .e1) = execEncode s := by
  have hval := validate_of_valLen (c := s.reqCircId) h
  have hstep := step_encode_stage (s := s.atStage .e1) hv ho .e1 rfl (by decide) (decode_e1 s.reqCmd)
  exact runStages_checked (by decide) (hstep.trans (execValCirc_atStage s.reqCmd s .e1)) (fun e he => hval.trans he)
    fun hc => runStages_encHdr hv ho (hval.trans hc) n

/-- From E0: the length bound, then the rest. -/
theorem runStages_valLen {s : State} (hv : s.linkVersion = 4#8) (ho : s.op = 1#1) (n : Nat) :
    runStages (n + 4) (s.atStage .e0) = execEncode s := by
  have hstep := step_encode_stage (s := s.atStage .e0) hv ho .e0 rfl (by decide) (decode_e0 s.reqCmd)
  exact runStages_checked (by decide) (hstep.trans (execValLen_atStage s.reqCmd s .e0)) (fun e he => by rw [validate, he])
    fun hl => runStages_valCirc hv ho hl n

/-- From E01, both checks taken as one (R97). -/
theorem runStages_validate {s : State} (hv : s.linkVersion = 4#8) (ho : s.op = 1#1) (n : Nat) :
    runStages (n + 3) (s.atStage .e01) = execEncode s := by
  have hstep := step_encode_stage (s := s.atStage .e01) hv ho .e01 rfl (by decide) (decode_e01 s.reqCmd)
  exact runStages_checked (by decide) (hstep.trans (execValidate_atStage s.reqCmd s .e01)) (fun _ he => he)
    fun hval => runStages_encHdr hv ho hval n

/-- Settles O51: from D0, E0 and E01 the stages left make up the transaction that OP selects. -/
theorem stagesRefineTheTransaction : Obligations.StagesRefineTheTransaction := by
  intro s hv
  rw [s.beginStages_eq, s.beginComposite_eq]
  obtain ho | ho := BitVec.eq_zero_or_eq_one s.op
  · rw [if_pos ho, if_pos ho, decodeOp, if_pos ho]
    exact ⟨runStages_decode hv ho 2, runStages_decode hv ho 1⟩
  · have h0 : s.op ≠ 0#1 := by simp [ho]
    rw [if_neg h0, if_neg h0, decodeOp, if_neg h0]
    exact ⟨runStages_valLen hv ho 0, runStages_validate hv ho 0⟩

end Sys2Proof.Machine
end

section
/-! PROOFS. The command map of 30_encoding.md R59: the class of a command gives its instruction, its framing and its policy. -/

namespace Sys2Proof.CmdClass

/-- The commands of a class (R59). -/
abbrev Contains : CmdClass → Command → Prop
  | .cmd0, m => m.toNat = 0
  | .cmd1to6, m => 1 ≤ m.toNat ∧ m.toNat ≤ 6
  | .cmd7, m => m.toNat = 7
  | .cmd8to127, m => 8 ≤ m.toNat ∧ m.toNat ≤ 127
  | .cmd128, m => m.toNat = 128
  | .cmd129to255, m => 129 ≤ m.toNat

/-- The framing of a class: whether its commands are variable-length (R59). -/
def isVar : CmdClass → Bool
  | .cmd0 | .cmd1to6 | .cmd8to127 => false
  | .cmd7 | .cmd128 | .cmd129to255 => true

/-- The circuit-id requirement of a class (R59). -/
def policy : CmdClass → Machine.PolicyClass
  | .cmd0 | .cmd7 | .cmd128 => .absent
  | .cmd1to6 | .cmd8to127 => .present
  | .cmd129to255 => .unconstrained

/-- The classes cover all 256 commands (R59). -/
theorem exists_contains (m : Command) : ∃ c : CmdClass, c.Contains m := by
  have h : m.toNat = 0 ∨ (1 ≤ m.toNat ∧ m.toNat ≤ 6) ∨ m.toNat = 7 ∨ (8 ≤ m.toNat ∧ m.toNat ≤ 127) ∨ m.toNat = 128 ∨
      129 ≤ m.toNat := by omega
  rcases h with h | h | h | h | h | h
  · exact ⟨.cmd0, h⟩
  · exact ⟨.cmd1to6, h⟩
  · exact ⟨.cmd7, h⟩
  · exact ⟨.cmd8to127, h⟩
  · exact ⟨.cmd128, h⟩
  · exact ⟨.cmd129to255, h⟩

end Sys2Proof.CmdClass

namespace Sys2Proof.Machine

/-! ## The classification -/

theorem isVar_iff (m : Command) : isVar m = true ↔ m.toNat = 7 ∨ 128 ≤ m.toNat := by
  simp [isVar, ← BitVec.toNat_inj]

theorem isVar_eq_false_iff (m : Command) : isVar m = false ↔ m.toNat ≤ 6 ∨ (8 ≤ m.toNat ∧ m.toNat ≤ 127) := by
  rw [← Bool.not_eq_true, isVar_iff]
  omega

/-- Bit 7 of a byte is set from 128 on. -/
theorem bit7_iff (m : Command) : m[7] = true ↔ 128 ≤ m.toNat := by
  have h : m[7] = m.msb := (BitVec.msb_eq_getLsbD_last m).symm
  rw [h, BitVec.msb_eq_true_iff_two_mul_ge]
  omega

/-- Settles O7: by value from the definition, by bits because bit 7 weighs 128. -/
theorem classificationByBits : Obligations.ClassificationByBits := by
  intro m
  have h7 : m.toNat = 7 ↔ m = 0b00000111#8 := BitVec.toNat_inj (y := 7#8)
  refine ⟨isVar_iff m, ?_⟩
  rw [isVar_iff, bit7_iff, h7, or_comm]

/-! ## The command map -/

theorem isVar_of_contains {c : CmdClass} {m : Command} (h : c.Contains m) : isVar m = c.isVar := by
  cases c with
  | cmd0 => exact (isVar_eq_false_iff m).2 (.inl (h.trans_le (by decide)))
  | cmd1to6 => exact (isVar_eq_false_iff m).2 (.inl h.2)
  | cmd8to127 => exact (isVar_eq_false_iff m).2 (.inr h)
  | cmd7 => exact (isVar_iff m).2 (.inl h)
  | cmd128 => exact (isVar_iff m).2 (.inr h.ge)
  | cmd129to255 => exact (isVar_iff m).2 (.inr (Nat.le_of_succ_le h))

/-- The commands R74 lists as absent, by value. -/
theorem absentCommand_iff (m : Command) : (m = 0#8 ∨ m = 7#8 ∨ m = 128#8) ↔ m.toNat = 0 ∨ m.toNat = 7 ∨ m.toNat = 128 := by
  simp only [← BitVec.toNat_inj, BitVec.toNat_ofNat, Nat.reducePow, Nat.reduceMod]

theorem policyClass_of_contains {c : CmdClass} {m : Command} (h : c.Contains m) : policyClass m = c.policy := by
  unfold policyClass
  simp only [absentCommand_iff]
  cases c with
  | cmd0 | cmd7 | cmd128 => exact if_pos (by omega)
  | cmd1to6 | cmd8to127 => rw [if_neg (by omega), if_pos (by omega)]; rfl
  | cmd129to255 => rw [if_neg (by omega), if_neg (by omega)]; rfl

/-- The blocks of R60 tile the ranges of R59: the block a command lies in is one of its class. -/
theorem decodeCommand_of_contains {c : CmdClass} {m : Command} (h : c.Contains m) : decodeCommand m = .ok (c.instr m) := by
  revert m
  cases c <;> decide +kernel

theorem decodeCommand_inv {m : Command} {i : Instr} (h : decodeCommand m = .ok i) :
    ∃ c : CmdClass, c.Contains m ∧ i = c.instr m := by
  obtain ⟨c, hc⟩ := CmdClass.exists_contains m
  cases h.symm.trans (decodeCommand_of_contains hc)
  exact ⟨c, hc, rfl⟩

/-- No two blocks of R60 overlap and none is missing. -/
theorem cmdRows_one_match : ∀ m : Command, (cmdRows.filter (fun r => r.matches m)).length = 1 := by decide +kernel

theorem commandMap {c : CmdClass} {m : Command} (h : c.Contains m) :
    decodeCommand m = .ok (c.instr m) ∧ isVar m = c.isVar ∧ policyClass m = c.policy :=
  ⟨decodeCommand_of_contains h, isVar_of_contains h, policyClass_of_contains h⟩

/-- Settles O4: the command map at each of the six classes, and the one block of a command. -/
theorem commandMapIsComplete : Obligations.CommandMapIsComplete := fun m =>
  ⟨cmdRows_one_match m, commandMap (c := .cmd0), commandMap (c := .cmd1to6), commandMap (c := .cmd7),
    commandMap (c := .cmd8to127), commandMap (c := .cmd128), commandMap (c := .cmd129to255)⟩

end Sys2Proof.Machine
end

section
/-! PROOFS. The selector encoding (30_encoding.md R68, R72): decoding inverts encoding, and encoding inverts decoding. -/

namespace Sys2Proof.Machine

/-- Settles O1: a class instruction's command lies in its class, and a micro-operation's stage runs it for its command. The stage beside
`SEL` is the model's reading (log 11, 12). -/
theorem selectorRoundTrip : Obligations.SelectorRoundTrip := by
  intro i h
  cases i with
  | decode => rfl
  | encode => rfl
  | cmd0 => exact decodeCommand_of_contains (c := .cmd0) (m := 0) rfl
  | cmd7 => exact decodeCommand_of_contains (c := .cmd7) (m := 7) rfl
  | cmd128 => exact decodeCommand_of_contains (c := .cmd128) (m := 128) rfl
  | cmd1to6 m => exact decodeCommand_of_contains (c := .cmd1to6) (of_decide_eq_true h)
  | cmd8to127 m => exact decodeCommand_of_contains (c := .cmd8to127) (of_decide_eq_true h)
  | cmd129to255 m => exact decodeCommand_of_contains (c := .cmd129to255) (of_decide_eq_true h)
  | hdrParse => exact decode_d0 0
  | extFix m => exact decode_d3f m ((isVar_eq_false_iff m).2 (of_decide_eq_true h))
  | extVar m => exact decode_d3v m ((isVar_iff m).2 (of_decide_eq_true h))
  | valLen m => exact decode_e0 m
  | valCirc m => exact decode_e1 m
  | validate m => exact decode_e01 m
  | encHdr m => exact decode_e2 m
  | encVar m => exact decode_e3v m ((isVar_iff m).2 (of_decide_eq_true h))
  | encFix m => exact decode_e3f m ((isVar_eq_false_iff m).2 (of_decide_eq_true h))

theorem decodeOp_selector (op : BitVec 1) : (decodeOp op).wellFormed = true ∧ (decodeOp op).selector = .req op := by
  obtain rfl | rfl := BitVec.eq_zero_or_eq_one op <;> exact ⟨rfl, rfl⟩

/-- The instruction of a class is well-formed for the commands of the class and encoded as the command. -/
theorem classInstr_selector {c : CmdClass} {m : Command} (h : c.Contains m) :
    (c.instr m).wellFormed = true ∧ (c.instr m).selector = .cmd m := by
  cases c with
  | cmd0 | cmd7 | cmd128 => exact ⟨rfl, congrArg Selector.cmd (BitVec.eq_of_toNat_eq (Eq.symm h))⟩
  | cmd1to6 | cmd8to127 | cmd129to255 => exact ⟨decide_eq_true h, rfl⟩

theorem selOf_selOp_selCmd (sel : BitVec 9) : selOf (selOp sel) (selCmd sel) = sel := by
  have h : sel.extractLsb' (0 + 8) 1 ++ sel.extractLsb' 0 8 = sel.extractLsb' 0 (1 + 8) :=
    BitVec.extractLsb'_append_extractLsb'_eq_extractLsb' rfl
  exact h.trans BitVec.extractLsb'_eq_self

/-- A row of the table holds only selectors of its operation, with commands its micro-operation admits. -/
theorem uopRows_sound : ∀ r ∈ uopRows, ∀ (o : BitVec 1) (m : Command), r.matches (selOf o m) = true →
    (r.op.instr m).wellFormed = true ∧
      ((r.op.instr m).selector = .uop r.op.stage (selOf o m) ∨ (r.op = .hdrParse ∧ o = 0)) := by
  decide +kernel

/-- What runs at a stage is the micro-operation of a row of that stage which holds the selector (R28, R72). -/
theorem decodeUop_row {st : Stage} {o : BitVec 1} {m : Command} {i : Instr} (h : decodeUop st (selOf o m) = .ok i) :
    ∃ r ∈ uopRows, r.op.stage = st ∧ r.matches (selOf o m) = true ∧ i = r.op.instr m := by
  unfold decodeUop at h
  split at h
  next r hr =>
    have hrow := List.find?_some hr
    obtain ⟨hst, hm⟩ := Bool.and_eq_true_iff.1 hrow
    cases h
    exact ⟨r, List.mem_of_find?_eq_some hr, of_decide_eq_true hst, hm, by rw [selCmd_selOf]⟩
  next => cases h

/-- Settles O2: by format. OP and the command byte are what their instruction is encoded as; a `SEL` lies in the row decoded. -/
theorem decodedInstructionIsWellFormed : Obligations.DecodedInstructionIsWellFormed := by
  intro sel i h
  cases sel with
  | req op =>
    cases h
    exact (decodeOp_selector op).imp_right .inl
  | cmd m =>
    obtain ⟨c, hc, rfl⟩ := decodeCommand_inv h
    exact (classInstr_selector hc).imp_right .inl
  | uop st sel =>
    rw [← selOf_selOp_selCmd sel] at h ⊢
    obtain ⟨r, hr, rfl, hm, rfl⟩ := decodeUop_row h
    obtain ⟨hwf, hsel | ⟨ho, h0⟩⟩ := uopRows_sound r hr _ _ hm
    · exact ⟨hwf, .inl hsel⟩
    · exact ⟨hwf, .inr ⟨by rw [ho]; rfl, selCmd sel, by rw [ho, h0]; rfl⟩⟩

end Sys2Proof.Machine
end

section
/-! PROOFS. The class rules (40_classify_policy.md R75 to R80) are the two operations, each with the framing and the policy of its
class put in. -/

namespace Sys2Proof.Machine

theorem classDecodeFixed_eq (m : Command) (W : Bytes) :
    classDecodeFixed m W = (extFix W).map (fun body => ⟨circField W, m, body⟩) := by
  unfold classDecodeFixed
  cases extFix W <;> rfl

theorem classDecodeVar_eq (m : Command) (W : Bytes) :
    classDecodeVar m W = (extVar W).map (fun body => ⟨circField W, m, body⟩) := by
  unfold classDecodeVar
  cases extVar W <;> rfl

/-- Behind the header `decode` is the extraction that the classification chooses (R107). -/
theorem decodeCell_header {W : Bytes} {c : CircId} {m : Command} (h : hdrParse W = .ok (c, m)) :
    decodeCell W = (if isVar m then extVar W else extFix W).map (fun body => ⟨c, m, body⟩) := by
  simp only [decodeCell, h]
  cases (if isVar m then extVar W else extFix W) <;> rfl

/-- Behind the header `decode` is the class rule of the command's framing (R75 to R80). -/
theorem decodeCell_class {W : Bytes} {m : Command} (h : hdrParse W = .ok (circField W, m)) :
    decodeCell W = if isVar m then classDecodeVar m W else classDecodeFixed m W := by
  rw [decodeCell_header h]
  cases isVar m with
  | true => exact (classDecodeVar_eq m W).symm
  | false => exact (classDecodeFixed_eq m W).symm

theorem validate_var {m : Command} (hm : isVar m = true) (c : CircId) (n : Nat) : validate c m n = valCirc c m :=
  validate_of_valLen (if_neg (by simp [hm]))

theorem validate_short {n : Nat} (hn : n ≤ 509) (c : CircId) (m : Command) : validate c m n = valCirc c m :=
  validate_of_valLen (if_neg fun h => Nat.not_lt.2 hn h.2)

theorem validate_tooLong {m : Command} (hm : isVar m = false) {n : Nat} (hn : 509 < n) (c : CircId) :
    validate c m n = .error .bodyTooLong := by
  rw [validate, valLen, if_pos ⟨hm, hn⟩]

theorem encodeCell_var {m : Command} (hm : isVar m = true) (c : CircId) (body : Bytes) :
    encodeCell c m body = classEncodeVar (policyClass m) c m body := by
  rw [encodeCell, validate_var hm, valCirc, policyCheck, classEncodeVar]
  cases policyVerdict (policyClass m) c with
  | forbidden | required => rfl
  | pass =>
    by_cases hn : 65535 < body.length
    · simp [hm, encVar, Config.maxVarBody, hn]
    · simp [hm, encVar, Config.maxVarBody, hn, encHdr]

theorem encodeCell_fixed {m : Command} (hm : isVar m = false) (c : CircId) (body : Bytes) :
    encodeCell c m body = classEncodeFixed (policyClass m) c m body := by
  rw [encodeCell, classEncodeFixed]
  by_cases hn : 509 < body.length
  · rw [validate_tooLong hm hn, if_pos hn]
  · rw [validate_short (Nat.not_lt.1 hn), if_neg hn, valCirc, policyCheck]
    cases policyVerdict (policyClass m) c with
    | forbidden | required => rfl
    | pass => simp [hm, encFix, encHdr, Config.cellDataLen]

/-- `encode` is the class rule of the command's framing and policy (R108, R109). -/
theorem encodeCell_class (c : CircId) (m : Command) (body : Bytes) :
    encodeCell c m body =
      if isVar m then classEncodeVar (policyClass m) c m body else classEncodeFixed (policyClass m) c m body := by
  cases hm : isVar m with
  | true => exact encodeCell_var hm c body
  | false => exact encodeCell_fixed hm c body

/-- What a class instruction does, by the framing and the policy of the class. -/
theorem exec_classInstr {c : CmdClass} {m : Command} (h : c.Contains m) (s : State) :
    exec (c.instr m) s = .next (s.transact (if c.isVar then classDecodeVar m s.input else classDecodeFixed m s.input)
      (if c.isVar then classEncodeVar c.policy s.reqCircId m s.input else classEncodeFixed c.policy s.reqCircId m s.input)) := by
  cases c with
  | cmd0 => obtain rfl : m = 0#8 := BitVec.eq_of_toNat_eq h; rfl
  | cmd7 => obtain rfl : m = 7#8 := BitVec.eq_of_toNat_eq h; rfl
  | cmd128 => obtain rfl : m = 128#8 := BitVec.eq_of_toNat_eq h; rfl
  | cmd1to6 | cmd8to127 | cmd129to255 => rfl

theorem exec_class_decode {s : State} (ho : s.op = 0#1) {c : CmdClass} {m : Command} (h : c.Contains m)
    (hp : hdrParse s.input = .ok (circField s.input, m)) : exec (c.instr m) s = execDecode s := by
  rw [exec_classInstr h, ← isVar_of_contains h, ← decodeCell_class hp]
  unfold execDecode State.transact
  rw [if_pos ho]
  cases decodeCell s.input <;> rfl

theorem exec_class_encode {s : State} (ho : s.op = 1#1) {c : CmdClass} (h : c.Contains s.reqCmd) :
    exec (c.instr s.reqCmd) s = execEncode s := by
  rw [exec_classInstr h, ← isVar_of_contains h, ← policyClass_of_contains h, ← encodeCell_class]
  unfold execEncode State.transact
  rw [if_neg (by simp [ho])]
  cases encodeCell s.reqCircId s.reqCmd s.input <;> rfl

/-- A frame that selects a class has a header, and its command selects it (R51, R85). -/
theorem decodeFrameCommand_inv {W : Bytes} {i : Instr} (h : decodeFrameCommand W = .ok i) :
    ∃ m, hdrParse W = .ok (circField W, m) ∧ decodeCommand m = .ok i := by
  unfold decodeFrameCommand at h
  split at h
  next m _ => exact ⟨m, by simp [hdrParse_eq], h⟩
  next => cases h

/-- A DECODE presented is what the next step runs (R15). -/
theorem step_presented_decode {s : State} (hv : s.linkVersion = 4#8) (hs : s.stage = .idle) (hp : s.pending = true)
    (ho : s.op = 0#1) : step s = execDecode s := by
  rw [step_of_fetch (fetch_presented hv hs hp), decodeOp, if_pos ho]
  rfl

/-- An ENCODE presented is what the next step runs (R15). -/
theorem step_presented_encode {s : State} (hv : s.linkVersion = 4#8) (hs : s.stage = .idle) (hp : s.pending = true)
    (ho : s.op = 1#1) : step s = execEncode s := by
  rw [step_of_fetch (fetch_presented hv hs hp), ho]
  rfl

/-- Settles O6: the step is the operation OP selects, and so is the class instruction of the command, which a DECODE finds in its
header and an ENCODE in `REQ_CMD`. -/
theorem stepRunsCommandClass : Obligations.StepRunsCommandClass := by
  intro s i hv hs hp hr
  unfold State.requestClass at hr
  obtain ho | ho := BitVec.eq_zero_or_eq_one s.op
  · rw [if_pos ho] at hr
    obtain ⟨m, hhdr, hm⟩ := decodeFrameCommand_inv hr
    obtain ⟨c, hc, rfl⟩ := decodeCommand_inv hm
    rw [step_presented_decode hv hs hp ho, exec_class_decode ho hc hhdr]
  · rw [if_neg (by simp [ho])] at hr
    obtain ⟨c, hc, rfl⟩ := decodeCommand_inv hr
    rw [step_presented_encode hv hs hp ho, exec_class_encode ho hc]

end Sys2Proof.Machine
end

section
/-! PROOFS. Decoding an encoded frame (45_operations.md R114, R115), and the round trip at the ports (30_encoding.md R71). -/

namespace Sys2Proof.Machine

/-! ## The fields of a frame that is put together -/

theorem slice_append {A B C : Bytes} {a b : Nat} (ha : A.length = a) (hb : a + B.length = b) : slice (A ++ (B ++ C)) a b = B := by
  subst ha hb
  simp [slice]

theorem circField_encHdr (c : CircId) (m : Command) (T : Bytes) : circField (encHdr c m ++ T) = c := by
  have h : slice ([] ++ (toBe32 c ++ ([m] ++ T))) 0 4 = toBe32 c := slice_append rfl rfl
  rw [List.nil_append] at h
  rw [circField_eq, encHdr, List.append_assoc, h, be32_toBe32]

/-- HDR.PARSE reads what ENC.HDR wrote, whatever follows (R85, R100). -/
theorem hdrParse_encHdr (c : CircId) (m : Command) (T : Bytes) : hdrParse (encHdr c m ++ T) = .ok (c, m) := by
  have hl : ¬ (encHdr c m ++ T).length < 5 := by simp [encHdr_length]
  rw [hdrParse_eq, dif_neg hl, circField_encHdr]
  rfl

/-! ## Strip -/

theorem strip_zeros (n : Nat) : strip (zeros n) = [] := by
  induction n with
  | zero => rfl
  | succ n ih =>
    rw [zeros, List.replicate_succ, strip, ← zeros, ih]
    rfl

/-- The padding of R104 is what Strip takes off. -/
theorem strip_append_zeros (P : Bytes) (n : Nat) : strip (P ++ zeros n) = strip P := by
  induction P with
  | nil => exact strip_zeros n
  | cons b P ih => rw [List.cons_append, strip, ih, strip]

/-! ## Extraction inverts the payload encoding -/

theorem encFix_length_eq {body : Bytes} (h : body.length ≤ 509) : (encFix body).length = 509 := by
  simp only [encFix, zeros, Config.cellDataLen, List.length_append, List.length_replicate]
  omega

theorem extFix_encFix {H body : Bytes} (hH : H.length = 5) (hn : body.length ≤ 509) :
    extFix (H ++ encFix body) = .ok (strip body) := by
  have hl := encFix_length_eq hn
  have hraw : rawPayload (H ++ encFix body) = encFix body := by
    have h : slice (H ++ (encFix body ++ [])) 5 514 = encFix body := slice_append hH (by rw [hl])
    rwa [List.append_nil] at h
  rw [extFix, if_neg (by simp [hH, hl, Config.fixedCellLen]), hraw, encFix, strip_append_zeros]

theorem extVar_encVar {H body : Bytes} (hH : H.length = 5) (hn : body.length ≤ 65535) :
    extVar (H ++ (toBe16 body.length ++ body)) = .ok body := by
  have hlen : lengthField (H ++ (toBe16 body.length ++ body)) = body.length := by
    have h : slice (H ++ (toBe16 body.length ++ body)) 5 7 = toBe16 body.length := slice_append hH rfl
    rw [lengthField_eq, h, be16_toBe16 hn]
  have hpay : varPayload (H ++ (toBe16 body.length ++ body)) body.length = body := by
    have h : slice ((H ++ toBe16 body.length) ++ (body ++ [])) 7 (7 + body.length) = body :=
      slice_append (by rw [List.length_append, hH, toBe16_length]) rfl
    rwa [List.append_nil, List.append_assoc] at h
  have hl : (H ++ (toBe16 body.length ++ body)).length = 7 + body.length := by
    simp only [List.length_append, hH, toBe16_length]
    omega
  unfold extVar
  rw [if_neg (by rw [hl, Config.varHdrLen]; omega), hlen, if_neg (by rw [hl, Config.varHdrLen]; omega), hpay]

/-! ## The round trip -/

theorem encVar_ok {body : Bytes} (h : body.length ≤ 65535) : encVar body = .ok (toBe16 body.length ++ body) :=
  if_neg (Nat.not_lt.2 h)

theorem valCirc_pass {c : CircId} {m : Command} (h : policyCheck c m = .pass) : valCirc c m = .ok () := by
  rw [valCirc, h]

/-- What `encode` gives for an admissible cell of a variable-length command (R108). -/
theorem encodeCell_varFrame {c : CircId} {m : Command} {body : Bytes} (hm : isVar m = true) (hp : policyCheck c m = .pass)
    (hn : body.length ≤ 65535) : encodeCell c m body = .ok (encHdr c m ++ (toBe16 body.length ++ body)) := by
  rw [encodeCell, validate_var hm, valCirc_pass hp, hm, encVar_ok hn]
  rfl

/-- What `encode` gives for an admissible cell of a fixed-length command (R108). -/
theorem encodeCell_fixedFrame {c : CircId} {m : Command} {body : Bytes} (hm : isVar m = false) (hp : policyCheck c m = .pass)
    (hn : body.length ≤ 509) : encodeCell c m body = .ok (encHdr c m ++ encFix body) := by
  rw [encodeCell, validate_short hn, valCirc_pass hp, hm]
  rfl

theorem decodeCell_varFrame {m : Command} {body : Bytes} (hm : isVar m = true) (hn : body.length ≤ 65535) (c : CircId) :
    decodeCell (encHdr c m ++ (toBe16 body.length ++ body)) = .ok ⟨c, m, body⟩ := by
  rw [decodeCell_header (hdrParse_encHdr c m _), if_pos hm, extVar_encVar (encHdr_length c m) hn]
  rfl

theorem decodeCell_fixedFrame {m : Command} {body : Bytes} (hm : isVar m = false) (hn : body.length ≤ 509) (c : CircId) :
    decodeCell (encHdr c m ++ encFix body) = .ok ⟨c, m, strip body⟩ := by
  rw [decodeCell_header (hdrParse_encHdr c m _), if_neg (by simp [hm]), extFix_encFix (encHdr_length c m) hn]
  rfl

/-- An admissible cell is encoded, and its frame decodes to the cell, stripped if it is fixed-length (R114, R115). -/
theorem encodeCell_ok_decodes {c : CircId} {m : Command} {body : Bytes} (hp : policyCheck c m = .pass)
    (hn : body.length ≤ (if isVar m then 65535 else 509)) :
    ∃ W, encodeCell c m body = .ok W ∧ decodeCell W = .ok ⟨c, m, if isVar m then body else strip body⟩ := by
  cases hm : isVar m with
  | true =>
    rw [hm] at hn
    exact ⟨_, encodeCell_varFrame hm hp hn, decodeCell_varFrame hm hn c⟩
  | false =>
    rw [hm] at hn
    exact ⟨_, encodeCell_fixedFrame hm hp hn, decodeCell_fixedFrame hm hn c⟩

/-! ## At the ports -/

/-- A DECODE the host presents between transactions is what the next step runs (R123). -/
theorem State.presentDecode_step {s : State} {W : Bytes} (hv : s.linkVersion = 4#8) (hs : s.stage = .idle) (hp : s.pending = false)
    (hn : W.length < 2 ^ Config.lenW) : ∃ r, s.presentDecode W = .next r ∧ r.op = 0#1 ∧ r.input = W ∧ step r = execDecode r :=
  have hadmit := State.admits_ok.2 ⟨State.not_inProgress hs hp, hn⟩
  ⟨_, State.presentDecode_ok hadmit, rfl, s.loadInput_input W 0 s.reqCircId s.reqCmd true,
    step_presented_decode hv hs rfl rfl⟩

/-- An ENCODE the host presents between transactions is what the next step runs (R124). -/
theorem State.presentEncode_step {s : State} {body : Bytes} (hv : s.linkVersion = 4#8) (hs : s.stage = .idle)
    (hp : s.pending = false) (hn : body.length < 2 ^ Config.lenW) (c : CircId) (m : Command) :
    ∃ r, s.presentEncode c m body = .next r ∧ r.linkVersion = 4#8 ∧ r.reqCircId = c ∧ r.reqCmd = m ∧ r.input = body ∧
      step r = execEncode r :=
  have hadmit := State.admits_ok.2 ⟨State.not_inProgress hs hp, hn⟩
  ⟨_, State.presentEncode_ok hadmit c m, hv, rfl, rfl, s.loadInput_input body 1 c m true,
    step_presented_encode hv hs rfl rfl⟩

theorem runDecode_response {s : State} {W : Bytes} (hv : s.linkVersion = 4#8) (hs : s.stage = .idle) (hp : s.pending = false)
    (hn : W.length < 2 ^ Config.lenW) :
    ∃ t, runDecode s W = .next t ∧ t.response = some (decodeResponse (decodeCell W)) := by
  obtain ⟨r, hr, ho, rfl, hstep⟩ := State.presentDecode_step hv hs hp hn
  rw [runDecode, hr, andThen, hstep]
  exact execDecode_response ho

/-- A successful ENCODE leaves no transaction in progress and the frame in OBUF. -/
theorem runEncode_frame {s : State} {c : CircId} {m : Command} {body W : Bytes} (hv : s.linkVersion = 4#8) (hs : s.stage = .idle)
    (hp : s.pending = false) (hn : body.length < 2 ^ Config.lenW) (he : encodeCell c m body = .ok W) :
    ∃ t, runEncode s c m body = .next t ∧ t.linkVersion = 4#8 ∧ t.stage = .idle ∧ t.pending = false ∧ t.status = 0#3 ∧
      t.output = W := by
  obtain ⟨r, hr, hrv, rfl, rfl, rfl, hstep⟩ := State.presentEncode_step hv hs hp hn c m
  refine ⟨r.answerFrame W, ?_, hrv, rfl, rfl, rfl, State.output_cellsAt rfl rfl⟩
  rw [runEncode, hr, andThen, hstep, execEncode, he]

/-- Settles O52: the ENCODE leaves the cell's frame in OBUF, and the DECODE of it answers what the frame decodes to. -/
theorem roundTripAtThePorts : Obligations.RoundTripAtThePorts := by
  intro s c m body hv hs hp hpol hn
  have hfits := Config.two_pow_lenW_ge
  have hbody : body.length < 2 ^ Config.lenW := by
    split at hn <;> omega
  obtain ⟨W, henc, hdec⟩ := encodeCell_ok_decodes hpol hn
  have hW := encodeCell_length henc
  obtain ⟨t, ht, htv, hts, htp, hstatus, hout⟩ := runEncode_frame hv hs hp hbody henc
  obtain ⟨u, hu, hresp⟩ := runDecode_response htv hts htp (W := W) (by omega)
  refine ⟨u, ?_, ?_⟩
  · rw [runRoundtrip, ht, andThen, if_pos hstatus, hout, hu]
  · rw [hresp, hdec, decodeResponse]

end Sys2Proof.Machine
end

section
/-! PROOFS. Classification and policy by value (40_classify_policy.md R74, R81, R83). -/

namespace Sys2Proof.Machine

/-! ## The policy class -/

theorem policyClass_absent_iff (m : Command) : policyClass m = .absent ↔ m.toNat = 0 ∨ m.toNat = 7 ∨ m.toNat = 128 := by
  obtain ⟨c, hc⟩ := CmdClass.exists_contains m
  rw [policyClass_of_contains hc]
  cases c with
  | cmd0 | cmd7 | cmd128 => exact iff_of_true rfl (by omega)
  | cmd1to6 | cmd8to127 | cmd129to255 => exact iff_of_false nofun (by omega)

theorem policyClass_present_iff (m : Command) :
    policyClass m = .present ↔ (1 ≤ m.toNat ∧ m.toNat ≤ 6) ∨ (8 ≤ m.toNat ∧ m.toNat ≤ 127) := by
  obtain ⟨c, hc⟩ := CmdClass.exists_contains m
  rw [policyClass_of_contains hc]
  cases c with
  | cmd1to6 | cmd8to127 => exact iff_of_true rfl (by omega)
  | cmd0 | cmd7 | cmd128 | cmd129to255 => exact iff_of_false nofun (by omega)

theorem policyClass_unconstrained_iff (m : Command) : policyClass m = .unconstrained ↔ 129 ≤ m.toNat := by
  obtain ⟨c, hc⟩ := CmdClass.exists_contains m
  rw [policyClass_of_contains hc]
  cases c with
  | cmd129to255 => exact iff_of_true rfl hc
  | cmd0 | cmd1to6 | cmd7 | cmd8to127 | cmd128 => exact iff_of_false nofun (by omega)

/-! ## The verdict of a policy class -/

theorem policyVerdict_forbidden_iff {p : PolicyClass} {c : CircId} : policyVerdict p c = .forbidden ↔ p = .absent ∧ c ≠ 0#32 := by
  cases p with
  | absent => simp [policyVerdict]
  | present => by_cases hc : c = 0#32 <;> simp [policyVerdict, hc]
  | unconstrained => simp [policyVerdict]

theorem policyVerdict_required_iff {p : PolicyClass} {c : CircId} : policyVerdict p c = .required ↔ p = .present ∧ c = 0#32 := by
  cases p with
  | absent => by_cases hc : c = 0#32 <;> simp [policyVerdict, hc]
  | present => simp [policyVerdict]
  | unconstrained => simp [policyVerdict]

/-- A verdict that is neither of the two failures passes (R81). -/
theorem policyVerdict_pass_iff {p : PolicyClass} {c : CircId} :
    policyVerdict p c = .pass ↔ ¬ (p = .absent ∧ c ≠ 0#32) ∧ ¬ (p = .present ∧ c = 0#32) := by
  rw [← policyVerdict_forbidden_iff, ← policyVerdict_required_iff]
  cases policyVerdict p c <;> decide

theorem policyVerdict_absent_forbidden {c : CircId} (hc : c ≠ 0#32) : policyVerdict .absent c = .forbidden :=
  policyVerdict_forbidden_iff.2 ⟨rfl, hc⟩

theorem policyVerdict_present_required {c : CircId} (hc : c = 0#32) : policyVerdict .present c = .required :=
  policyVerdict_required_iff.2 ⟨rfl, hc⟩

theorem policyVerdict_absent_pass {c : CircId} (hc : c = 0#32) : policyVerdict .absent c = .pass := if_pos hc

theorem policyVerdict_present_pass {c : CircId} (hc : c ≠ 0#32) : policyVerdict .present c = .pass := if_neg hc

/-- Settles O8: the class by value, then the verdict of that class. -/
theorem policyCheckTruthTable : Obligations.PolicyCheckTruthTable := fun _ m =>
  ⟨policyClass_absent_iff m, policyClass_present_iff m, policyClass_unconstrained_iff m,
    policyVerdict_forbidden_iff, policyVerdict_required_iff, policyVerdict_pass_iff⟩

/-- Settles O9: both functions by value; the ranges then compare. -/
theorem policyFollowsFraming : Obligations.PolicyFollowsFraming := by
  intro m
  simp only [policyClass_absent_iff, policyClass_present_iff, policyClass_unconstrained_iff, isVar_iff, isVar_eq_false_iff,
    ← BitVec.toNat_inj, BitVec.toNat_ofNat, Nat.reducePow, Nat.reduceMod]
  omega

end Sys2Proof.Machine
end

section
/-! PROOFS. The class rules case by case (40_classify_policy.md R75 to R80), under `decode` and under `encode`, and what `decode` makes of
the command and the circuit id (R82, R84). -/

namespace Sys2Proof.Machine

/-! ## The extractions by the offsets of R6 -/

theorem extFix_eq (W : Bytes) :
    extFix W = if W.length < 514 then .error .incompleteData else .ok (strip (slice W 5 514)) := rfl

theorem extVar_eq (W : Bytes) :
    extVar W = if W.length < 7 then .error .incompleteData else if W.length < 7 + be16 (slice W 5 7) then .error .truncatedBody
      else .ok (slice W 7 (7 + be16 (slice W 5 7))) := rfl

/-! ## What a class decodes to -/

theorem classDecodeFixed_short {W : Bytes} (hn : W.length < 514) (m : Command) :
    classDecodeFixed m W = .error .incompleteData := by
  rw [classDecodeFixed_eq, extFix_eq, if_pos hn]
  rfl

theorem classDecodeFixed_ok {W : Bytes} (hn : 514 ≤ W.length) (m : Command) :
    classDecodeFixed m W = .ok ⟨circField W, m, strip (slice W 5 514)⟩ := by
  rw [classDecodeFixed_eq, extFix_eq, if_neg (Nat.not_lt.2 hn)]
  rfl

theorem classDecodeVar_short {W : Bytes} (hn : W.length < 7) (m : Command) : classDecodeVar m W = .error .incompleteData := by
  rw [classDecodeVar_eq, extVar_eq, if_pos hn]
  rfl

theorem classDecodeVar_truncated {W : Bytes} (h7 : 7 ≤ W.length) (hn : W.length < 7 + be16 (slice W 5 7)) (m : Command) :
    classDecodeVar m W = .error .truncatedBody := by
  rw [classDecodeVar_eq, extVar_eq, if_neg (Nat.not_lt.2 h7), if_pos hn]
  rfl

theorem classDecodeVar_ok {W : Bytes} (hn : 7 + be16 (slice W 5 7) ≤ W.length) (m : Command) :
    classDecodeVar m W = .ok ⟨circField W, m, slice W 7 (7 + be16 (slice W 5 7))⟩ := by
  have h7 : 7 ≤ W.length := Nat.le_of_add_right_le hn
  rw [classDecodeVar_eq, extVar_eq, if_neg (Nat.not_lt.2 h7), if_neg (Nat.not_lt.2 hn)]
  rfl

/-! ## What a class encodes to -/

section
variable {p : PolicyClass} {c : CircId} {body : Bytes}

theorem classEncodeFixed_tooLong (hn : 509 < body.length) (p : PolicyClass) (c : CircId) (m : Command) :
    classEncodeFixed p c m body = .error .bodyTooLong := if_pos hn

theorem classEncodeFixed_forbidden (hn : body.length ≤ 509) (hp : policyVerdict p c = .forbidden) (m : Command) :
    classEncodeFixed p c m body = .error (.circuitIdPolicyViolation .forbidden) := by
  rw [classEncodeFixed, if_neg (Nat.not_lt.2 hn), hp]

theorem classEncodeFixed_required (hn : body.length ≤ 509) (hp : policyVerdict p c = .required) (m : Command) :
    classEncodeFixed p c m body = .error (.circuitIdPolicyViolation .required) := by
  rw [classEncodeFixed, if_neg (Nat.not_lt.2 hn), hp]

theorem classEncodeFixed_ok (hn : body.length ≤ 509) (hp : policyVerdict p c = .pass) (m : Command) :
    classEncodeFixed p c m body = .ok (toBe32 c ++ [m] ++ body ++ zeros (509 - body.length)) := by
  rw [classEncodeFixed, if_neg (Nat.not_lt.2 hn), hp]

theorem classEncodeVar_forbidden (hp : policyVerdict p c = .forbidden) (m : Command) (body : Bytes) :
    classEncodeVar p c m body = .error (.circuitIdPolicyViolation .forbidden) := by
  rw [classEncodeVar, hp]

theorem classEncodeVar_tooLong (hp : policyVerdict p c = .pass) (hn : 65535 < body.length) (m : Command) :
    classEncodeVar p c m body = .error .bodyTooLong := by
  rw [classEncodeVar, hp, if_pos hn]

theorem classEncodeVar_ok (hp : policyVerdict p c = .pass) (hn : body.length ≤ 65535) (m : Command) :
    classEncodeVar p c m body = .ok (toBe32 c ++ [m] ++ toBe16 body.length ++ body) := by
  rw [classEncodeVar, hp, if_neg (Nat.not_lt.2 hn)]

/-! Where the circuit id must be absent, a header that passes starts with four zero bytes (R75, R77, R79). -/

theorem classEncodeFixed_absent_ok (hn : body.length ≤ 509) (hc : c = 0#32) (m : Command) :
    classEncodeFixed .absent c m body = .ok ([0, 0, 0, 0, m] ++ body ++ zeros (509 - body.length)) := by
  subst hc
  exact classEncodeFixed_ok hn rfl m

theorem classEncodeVar_absent_tooLong (hc : c = 0#32) (hn : 65535 < body.length) (m : Command) :
    classEncodeVar .absent c m body = .error .bodyTooLong := classEncodeVar_tooLong (policyVerdict_absent_pass hc) hn m

theorem classEncodeVar_absent_ok (hc : c = 0#32) (hn : body.length ≤ 65535) (m : Command) :
    classEncodeVar .absent c m body = .ok ([0, 0, 0, 0, m] ++ toBe16 body.length ++ body) := by
  subst hc
  exact classEncodeVar_ok rfl hn m

end

/-! ## The rules under decode and encode -/

/-- The header of a frame that has a command byte (R85). -/
theorem hdrParse_of_command {W : Bytes} {m : Command} (hW : W[4]? = some m) : hdrParse W = .ok (circField W, m) := by
  obtain ⟨hn, rfl⟩ := List.getElem?_eq_some_iff.1 hW
  rw [hdrParse_eq, dif_neg (Nat.not_lt.2 hn)]

theorem decodeCell_fixed {W : Bytes} {m : Command} (hm : isVar m = false) (hW : W[4]? = some m) :
    decodeCell W = classDecodeFixed m W := by
  rw [decodeCell_class (hdrParse_of_command hW), if_neg (by simp [hm])]

theorem decodeCell_var {W : Bytes} {m : Command} (hm : isVar m = true) (hW : W[4]? = some m) :
    decodeCell W = classDecodeVar m W := by
  rw [decodeCell_class (hdrParse_of_command hW), if_pos hm]

/-- Settles O23: command 0 is fixed-length, its circuit id must be absent. -/
theorem command0Rule : Obligations.Command0Rule := by
  refine ⟨fun W hW => ?_, fun c body => ?_⟩
  · rw [decodeCell_fixed rfl hW]
    exact ⟨(classDecodeFixed_short · 0), (classDecodeFixed_ok · 0)⟩
  · have hp : policyClass 0 = .absent := rfl
    rw [encodeCell_fixed rfl, hp]
    exact ⟨(classEncodeFixed_tooLong · _ c 0), fun hn hc => classEncodeFixed_forbidden hn (policyVerdict_absent_forbidden hc) 0,
      fun hn hc => classEncodeFixed_absent_ok hn hc 0⟩

/-- Settles O24: these commands are fixed-length, their circuit id must be present. -/
theorem commandsThatNeedACircuitRule : Obligations.CommandsThatNeedACircuitRule := by
  intro m h
  have hp : policyClass m = .present := (policyClass_present_iff m).2 h
  have hm : isVar m = false := (policyFollowsFraming m).1 hp
  refine ⟨fun W hW => ?_, fun c body => ?_⟩
  · rw [decodeCell_fixed hm hW]
    exact ⟨(classDecodeFixed_short · m), (classDecodeFixed_ok · m)⟩
  · rw [encodeCell_fixed hm, hp]
    exact ⟨(classEncodeFixed_tooLong · _ c m), fun hn hc => classEncodeFixed_required hn (policyVerdict_present_required hc) m,
      fun hn hc => classEncodeFixed_ok hn (policyVerdict_present_pass hc) m⟩

/-- Settles O25: these commands are variable-length, their circuit id must be absent. -/
theorem commands7And128Rule : Obligations.Commands7And128Rule := by
  intro m h
  have hp : policyClass m = .absent := (policyClass_absent_iff m).2 (.inr h)
  have hm : isVar m = true := (isVar_iff m).2 (h.imp_right Eq.ge)
  refine ⟨fun W hW => ?_, fun c body => ?_⟩
  · rw [decodeCell_var hm hW]
    exact ⟨(classDecodeVar_short · m), (classDecodeVar_truncated · · m), (classDecodeVar_ok · m)⟩
  · rw [encodeCell_var hm, hp]
    exact ⟨fun hc => classEncodeVar_forbidden (policyVerdict_absent_forbidden hc) m body,
      (classEncodeVar_absent_tooLong · · m), (classEncodeVar_absent_ok · · m)⟩

/-- Settles O26: these commands are variable-length, and no circuit id is asked of them. -/
theorem commands129To255Rule : Obligations.Commands129To255Rule := by
  intro m h
  have hp : policyClass m = .unconstrained := (policyClass_unconstrained_iff m).2 h
  have hm : isVar m = true := (isVar_iff m).2 (.inr (Nat.le_of_succ_le h))
  refine ⟨fun W hW => ?_, fun c body => ?_⟩
  · rw [decodeCell_var hm hW]
    exact ⟨(classDecodeVar_short · m), (classDecodeVar_truncated · · m), (classDecodeVar_ok · m)⟩
  · rw [encodeCell_var hm, hp]
    exact ⟨(classEncodeVar_tooLong rfl · m), (classEncodeVar_ok rfl · m)⟩

/-! ## What decode reads of the command and of the circuit id -/

/-- Behind the byte after `H` a frame does not show which byte that is. -/
theorem slice_behind {H : Bytes} {a : Nat} (ha : H.length < a) (m m' : Command) (X : Bytes) (b : Nat) :
    slice (H ++ m' :: X) a b = slice (H ++ m :: X) a b := by
  obtain ⟨k, rfl⟩ := Nat.exists_eq_add_of_lt ha
  rw [slice, slice, Nat.add_assoc, List.drop_length_add_append, List.drop_length_add_append, List.drop_succ_cons,
    List.drop_succ_cons]

/-- Settles O27: both extractions read behind the command, and the circuit id stands before it. -/
theorem extractionDependsOnClassification : Obligations.ExtractionDependsOnClassification := by
  intro H X m m' hH hv
  have hhdr (k : Command) : hdrParse (H ++ k :: X) = .ok (be32 H, k) := by
    rw [hdrParse_of_command (m := k) (by simp [← hH]), circField_eq]
    rw [show slice (H ++ k :: X) 0 4 = H from slice_append (A := []) rfl (by simpa using hH)]
  have hlen : (H ++ m' :: X).length = (H ++ m :: X).length := by simp
  have hslice (a b : Nat) (ha : 4 < a) : slice (H ++ m' :: X) a b = slice (H ++ m :: X) a b := slice_behind (hH ▸ ha) m m' X b
  have hfix : extFix (H ++ m' :: X) = extFix (H ++ m :: X) := by
    rw [extFix_eq, extFix_eq, hlen, hslice 5 514 (by decide)]
  have hvar : extVar (H ++ m' :: X) = extVar (H ++ m :: X) := by
    rw [extVar_eq, extVar_eq, hlen, hslice 5 7 (by decide), hslice 7 _ (by decide)]
  rw [decodeCell_header (hhdr m'), decodeCell_header (hhdr m), hfix, hvar, hv]
  cases (if isVar m' then extVar (H ++ m :: X) else extFix (H ++ m :: X)) <;> rfl

/-- Settles O28: the frame is a header and a payload as ENC.HDR and the payload encoders would write them, with no policy asked. -/
theorem decodeAppliesNoPolicy : Obligations.DecodeAppliesNoPolicy := by
  intro c m
  have hframe (T : Bytes) : toBe32 c ++ m :: T = encHdr c m ++ T := by rw [encHdr, List.append_assoc]; rfl
  refine ⟨fun P hm hP => ?_, fun body hm hn => ?_⟩
  · have hfull : encFix P = P := by simp [encFix, Config.cellDataLen, hP, zeros]
    have h := decodeCell_fixedFrame hm hP.le c
    rwa [hfull, ← hframe] at h
  · rw [hframe]
    exact decodeCell_varFrame hm hn c

end Sys2Proof.Machine
end

section
/-! PROOFS. The class rules as instructions at the ports (40_classify_policy.md R75 to R80, 45_operations.md R123, R124; log 10). -/

namespace Sys2Proof.Machine

/-! ## A transaction by what its operation answers -/

section
variable {i : Instr} {s : State} {d : Except DecodeError ChannelCell} {e : Except EncodeError Bytes}

theorem exec_transact_decodeError (hi : exec i s = .next (s.transact d e)) (ho : s.op = 0#1) {k : DecodeError}
    (hd : d = .error k) : ∃ t, exec i s = .next t ∧ GaveError s t k.kind := by
  subst hd
  exact ⟨_, hi.trans (congrArg _ (if_pos ho)), s.raise_gaveError k.kind⟩

theorem exec_transact_cell (hi : exec i s = .next (s.transact d e)) (ho : s.op = 0#1) {c : ChannelCell} (hd : d = .ok c) :
    ∃ t, exec i s = .next t ∧ GaveCell s t c := by
  subst hd
  exact ⟨_, hi.trans (congrArg _ (if_pos ho)), s.answerCell_gaveCell c⟩

theorem exec_transact_encodeError (hi : exec i s = .next (s.transact d e)) (ho : s.op = 1#1) {k : EncodeError}
    (he : e = .error k) : ∃ t, exec i s = .next t ∧ GaveError s t k.kind := by
  subst he
  exact ⟨_, hi.trans (congrArg _ (if_neg (by simp [ho]))), s.raise_gaveError k.kind⟩

theorem exec_transact_frame (hi : exec i s = .next (s.transact d e)) (ho : s.op = 1#1) {W : Bytes} (he : e = .ok W) :
    ∃ t, exec i s = .next t ∧ GaveFrame s t W := by
  subst he
  exact ⟨_, hi.trans (congrArg _ (if_neg (by simp [ho]))), s.answerFrame_gaveFrame W⟩

end

/-! ## The rules at the ports -/

/-- Settles O39: the transaction of the class rule, case by case. -/
theorem command0AtThePorts : Obligations.Command0AtThePorts := by
  intro s
  rw [← s.input_length]
  have hi : exec .cmd0 s = .next (s.transact (classDecodeFixed 0 s.input) (classEncodeFixed .absent s.reqCircId 0 s.input)) := rfl
  refine ⟨fun ho hn => ?_, fun ho hn => ?_, fun ho hn => ?_, fun ho hn hc => ?_, fun ho hn hc => ?_⟩
  · exact exec_transact_decodeError hi ho (classDecodeFixed_short hn 0)
  · exact exec_transact_cell hi ho (classDecodeFixed_ok hn 0)
  · exact exec_transact_encodeError hi ho (classEncodeFixed_tooLong hn _ _ 0)
  · exact exec_transact_encodeError hi ho (classEncodeFixed_forbidden hn (policyVerdict_absent_forbidden hc) 0)
  · exact exec_transact_frame hi ho (classEncodeFixed_absent_ok hn hc 0)

/-- Settles O40: both classes are the same transaction, for every operand. -/
theorem commandsThatNeedACircuitAtThePorts : Obligations.CommandsThatNeedACircuitAtThePorts := by
  intro s m i h
  rw [← s.input_length]
  have hi : exec i s = .next (s.transact (classDecodeFixed m s.input) (classEncodeFixed .present s.reqCircId m s.input)) := by
    obtain rfl | rfl := h <;> rfl
  refine ⟨fun ho hn => ?_, fun ho hn => ?_, fun ho hn => ?_, fun ho hn hc => ?_, fun ho hn hc => ?_⟩
  · exact exec_transact_decodeError hi ho (classDecodeFixed_short hn m)
  · exact exec_transact_cell hi ho (classDecodeFixed_ok hn m)
  · exact exec_transact_encodeError hi ho (classEncodeFixed_tooLong hn _ _ m)
  · exact exec_transact_encodeError hi ho (classEncodeFixed_required hn (policyVerdict_present_required hc) m)
  · exact exec_transact_frame hi ho (classEncodeFixed_ok hn (policyVerdict_present_pass hc) m)

/-- Settles O41: both commands are the same transaction, case by case. -/
theorem commands7And128AtThePorts : Obligations.Commands7And128AtThePorts := by
  intro s m i h
  rw [← s.input_length]
  have hi : exec i s = .next (s.transact (classDecodeVar m s.input) (classEncodeVar .absent s.reqCircId m s.input)) := by
    obtain ⟨rfl, rfl⟩ | ⟨rfl, rfl⟩ := h <;> rfl
  refine ⟨fun ho hn => ?_, fun ho h7 hn => ?_, fun ho _ hn => ?_, fun ho hc => ?_, fun ho hc hn => ?_, fun ho hc hn => ?_⟩
  · exact exec_transact_decodeError hi ho (classDecodeVar_short hn m)
  · exact exec_transact_decodeError hi ho (classDecodeVar_truncated h7 hn m)
  · exact exec_transact_cell hi ho (classDecodeVar_ok hn m)
  · exact exec_transact_encodeError hi ho (classEncodeVar_forbidden (policyVerdict_absent_forbidden hc) m _)
  · exact exec_transact_encodeError hi ho (classEncodeVar_absent_tooLong hc hn m)
  · exact exec_transact_frame hi ho (classEncodeVar_absent_ok hc hn m)

/-- Settles O42: the transaction of the class rule; its policy passes every circuit id. -/
theorem commands129To255AtThePorts : Obligations.Commands129To255AtThePorts := by
  intro s m
  rw [← s.input_length]
  have hi : exec (.cmd129to255 m) s =
      .next (s.transact (classDecodeVar m s.input) (classEncodeVar .unconstrained s.reqCircId m s.input)) := rfl
  refine ⟨fun ho hn => ?_, fun ho h7 hn => ?_, fun ho _ hn => ?_, fun ho hn => ?_, fun ho hn => ?_⟩
  · exact exec_transact_decodeError hi ho (classDecodeVar_short hn m)
  · exact exec_transact_decodeError hi ho (classDecodeVar_truncated h7 hn m)
  · exact exec_transact_cell hi ho (classDecodeVar_ok hn m)
  · exact exec_transact_encodeError hi ho (classEncodeVar_tooLong rfl hn m)
  · exact exec_transact_frame hi ho (classEncodeVar_ok rfl hn m)

end Sys2Proof.Machine
end

section
/-! PROOFS. The header parser, as a function of the input and as a stage (41_header_parser.md R85; R27, R28, R94). -/

namespace Sys2Proof.Machine

/-! ## HdrParse by the length and the bytes of its input -/

/-- Below five bytes there is no header (R85). -/
theorem hdrParse_short {W : Bytes} (h : W.length < 5) : hdrParse W = .error .incompleteData := by
  rw [hdrParse_eq, dif_pos h]

/-- Every error of the header parser is for want of a byte of the header (R85). -/
theorem length_lt_of_hdrParse_error {W : Bytes} {e : DecodeError} (h : hdrParse W = .error e) : W.length < 5 := by
  by_contra hn
  rw [hdrParse_eq, dif_neg hn] at h
  cases h

theorem circField_quad_toNat (b0 b1 b2 b3 : Byte) (X : Bytes) : (circField (b0 :: b1 :: b2 :: b3 :: X)).toNat =
    b0.toNat * 2 ^ 24 + b1.toNat * 2 ^ 16 + b2.toNat * 2 ^ 8 + b3.toNat :=
  be32_quad_toNat b0 b1 b2 b3

/-- Settles O13: the only error is below five bytes, and otherwise the pair is the circuit id's field and byte 4. -/
theorem headerParserContract : Obligations.HeaderParserContract :=
  ⟨fun _ => ⟨length_lt_of_hdrParse_error, hdrParse_short⟩,
    fun b0 b1 b2 b3 m X => ⟨_, hdrParse_of_command rfl, circField_quad_toNat b0 b1 b2 b3 (m :: X)⟩⟩

/-! ## HDR.PARSE as a stage -/

/-- An input of at least five bytes starts with bytes 0 to 4 of IBUF (R33). -/
theorem State.input_header {s : State} (h : 5 ≤ s.inLen) :
    ∃ X, s.input = s.ibufByte 0 :: s.ibufByte 1 :: s.ibufByte 2 :: s.ibufByte 3 :: s.ibufByte 4 :: X := by
  obtain ⟨n, hn⟩ := Nat.exists_eq_add_of_le h
  rw [State.input, hn, List.range_add, List.map_append]
  exact ⟨_, rfl⟩

theorem execHdrParse_error {s : State} {e : DecodeError} (h : hdrParse s.input = .error e) :
    execHdrParse s = .next (s.raise e.kind) := by
  rw [execHdrParse, h]

theorem execHdrParse_ok {s : State} {c : CircId} {m : Command} (h : hdrParse s.input = .ok (c, m)) :
    execHdrParse s = .next { s with circ := c, cmd := m, stage := if isVar m then .d3v else .d3f } := by
  rw [execHdrParse, h]

/-- Settles O43: the error response for a short input, and else the pair that the header parser gives for the first five bytes. -/
theorem headerParseStage : Obligations.HeaderParseStage := by
  intro s
  refine ⟨fun hn => ?_, fun hn => ?_⟩
  · have hp : hdrParse s.input = .error .incompleteData := hdrParse_short (by rwa [s.input_length])
    exact ⟨_, execHdrParse_error hp, s.raise_gaveError _⟩
  · obtain ⟨X, hX⟩ := State.input_header hn
    obtain ⟨c, hp, hc⟩ := headerParserContract.2 (s.ibufByte 0) (s.ibufByte 1) (s.ibufByte 2) (s.ibufByte 3) (s.ibufByte 4) X
    rw [← hX] at hp
    exact ⟨_, execHdrParse_ok hp, hc, rfl, rfl, SameRequestSide.refl s, ⟨rfl, rfl, rfl, rfl, rfl, rfl, rfl, rfl⟩, fun _ => rfl⟩

end Sys2Proof.Machine
end

section
/-! PROOFS. Strip (42_body_extractor.md R88, R89): the padding it takes off restores the body, and what it leaves does not end in a
zero byte. -/

namespace Sys2Proof.Machine

/-! ## Strip by the last byte -/

theorem strip_concat_zero (P : Bytes) : strip (P ++ [0#8]) = strip P := strip_append_zeros P 1

theorem strip_concat_of_ne {b : Byte} (hb : b ≠ 0#8) (P : Bytes) : strip (P ++ [b]) = P ++ [b] := by
  induction P with
  | nil => exact if_neg hb
  | cons a P ih =>
    rw [List.cons_append, strip, ih]
    cases P <;> rfl

/-- Strip leaves exactly those bodies as they are that do not end in a zero byte. -/
theorem strip_eq_self_iff (P : Bytes) : strip P = P ↔ P = [] ∨ P.getLast? ≠ some 0#8 := by
  induction P using List.reverseRecOn with
  | nil => exact iff_of_true rfl (.inl rfl)
  | append_singleton P b _ =>
    by_cases hb : b = 0#8
    · subst hb
      have hne : strip (P ++ [0#8]) ≠ P ++ [0#8] := fun h => by
        have hle := strip_length_le P
        rw [← strip_concat_zero, h, List.length_append, List.length_singleton] at hle
        omega
      simp [hne]
    · simp [strip_concat_of_ne hb, hb]

/-! ## What Strip takes off -/

theorem zeros_add (m n : Nat) : zeros (m + n) = zeros m ++ zeros n := List.replicate_add ..

theorem strip_append_padding (P : Bytes) : strip P ++ zeros (P.length - (strip P).length) = P := by
  induction P using List.reverseRecOn with
  | nil => rfl
  | append_singleton P b ih =>
    by_cases hb : b = 0#8
    · subst hb
      rw [strip_concat_zero, List.length_append, Nat.sub_add_comm (strip_length_le P), zeros_add, ← List.append_assoc, ih]
      rfl
    · rw [strip_concat_of_ne hb, Nat.sub_self]
      exact List.append_nil _

theorem strip_prefix (P : Bytes) : strip P <+: P := ⟨_, strip_append_padding P⟩

theorem strip_idempotent (P : Bytes) : strip (strip P) = strip P :=
  calc strip (strip P) = strip (strip P ++ zeros (P.length - (strip P).length)) := (strip_append_zeros _ _).symm
    _ = strip P := by rw [strip_append_padding]

/-- Two bodies with the same stripped bytes are those bytes, each with its padding, and the shorter padding starts the longer. -/
theorem strip_eq_iff (P Q : Bytes) : strip P = strip Q ↔ (∃ k, P = Q ++ zeros k) ∨ ∃ k, Q = P ++ zeros k := by
  constructor
  · intro h
    have hP := strip_append_padding P
    have hQ := strip_append_padding Q
    rw [h] at hP
    generalize P.length - (strip Q).length = i at hP
    generalize Q.length - (strip Q).length = j at hQ
    generalize strip Q = S at hP hQ
    subst hP hQ
    obtain ⟨k, rfl⟩ | ⟨k, rfl⟩ := (Nat.le_total j i).imp Nat.exists_eq_add_of_le Nat.exists_eq_add_of_le
    · exact .inl ⟨k, by rw [zeros_add, List.append_assoc]⟩
    · exact .inr ⟨k, by rw [zeros_add, List.append_assoc]⟩
  · rintro (⟨k, rfl⟩ | ⟨k, rfl⟩)
    · exact strip_append_zeros Q k
    · exact (strip_append_zeros P k).symm

/-- Settles O12: (b) is (f) of the stripped body, which by (d) is stripped already. -/
theorem stripLaws : Obligations.StripLaws := fun P =>
  ⟨⟨strip_prefix P, strip_length_le P⟩, (strip_eq_self_iff _).1 (strip_idempotent P), strip_append_padding P, strip_idempotent P,
    strip_append_zeros P, strip_eq_self_iff P, strip_zeros, strip_eq_iff P⟩

/-! ## Where the zeros begin -/

/-- What follows the first `j` bytes is zeros exactly if every byte from `j` on is zero. -/
theorem drop_eq_zeros_iff (P : Bytes) (j : Nat) :
    P.drop j = zeros (P.length - j) ↔ ∀ i (h : i < P.length), j ≤ i → P[i] = 0#8 := by
  rw [zeros, List.eq_replicate_iff, List.length_drop, and_iff_right rfl, List.forall_mem_iff_getElem]
  constructor
  · intro h i hi hj
    obtain ⟨k, rfl⟩ := Nat.exists_eq_add_of_le hj
    have hk : k < (P.drop j).length := by rw [List.length_drop]; omega
    exact List.getElem_drop.symm.trans (h k hk)
  · intro h k hk
    rw [List.length_drop] at hk
    exact List.getElem_drop.trans (h (j + k) (by omega) (Nat.le_add_right j k))

theorem drop_strip_length (P : Bytes) : P.drop (strip P).length = zeros (P.length - (strip P).length) := by
  have h := List.drop_left (l₁ := strip P) (l₂ := zeros (P.length - (strip P).length))
  rwa [strip_append_padding] at h

/-- A body that is zero from `j` on is stripped to at most `j` bytes. -/
theorem strip_length_le_of_drop {P : Bytes} {j : Nat} (h : P.drop j = zeros (P.length - j)) : (strip P).length ≤ j :=
  calc (strip P).length = (strip (P.take j)).length := by rw [← strip_append_zeros (P.take j), ← h, List.take_append_drop]
    _ ≤ (P.take j).length := strip_length_le _
    _ ≤ j := List.length_take_le j P

/-- Settles O11: the smallest `k` is the length of the stripped body. -/
theorem stripIsShortest : Obligations.StripIsShortest := fun P =>
  ⟨(strip P).length, strip_length_le P, List.prefix_iff_eq_take.1 (strip_prefix P),
    (drop_eq_zeros_iff P _).1 (drop_strip_length P), fun _ _ hj => strip_length_le_of_drop ((drop_eq_zeros_iff P _).2 hj)⟩

end Sys2Proof.Machine
end

section
/-! PROOFS. The two extractions, as functions of the input and as stages (42_body_extractor.md R90, R92, R93; R28). -/

namespace Sys2Proof.Machine

/-! ## ExtFix and ExtVar by the length of their input -/

theorem extFix_short {W : Bytes} (hn : W.length < 514) : extFix W = .error .incompleteData := if_pos hn

theorem extFix_ok {W : Bytes} (hn : 514 ≤ W.length) : extFix W = .ok (strip (slice W 5 514)) := if_neg (Nat.not_lt.2 hn)

theorem extVar_short {W : Bytes} (hn : W.length < 7) : extVar W = .error .incompleteData := if_pos hn

theorem extVar_truncated {W : Bytes} (h7 : 7 ≤ W.length) (hn : W.length < 7 + be16 (slice W 5 7)) :
    extVar W = .error .truncatedBody := by
  rw [extVar_eq, if_neg (Nat.not_lt.2 h7), if_pos hn]

theorem extVar_ok {W : Bytes} (hn : 7 + be16 (slice W 5 7) ≤ W.length) :
    extVar W = .ok (slice W 7 (7 + be16 (slice W 5 7))) := by
  have h7 : 7 ≤ W.length := Nat.le_of_add_right_le hn
  rw [extVar_eq, if_neg (Nat.not_lt.2 h7), if_neg (Nat.not_lt.2 hn)]

/-- Fixed-length extraction fails for want of a byte of the cell, and for nothing else (R90). -/
theorem extFix_incomplete_iff (W : Bytes) : extFix W = .error .incompleteData ↔ W.length < 514 := by
  refine ⟨fun h => ?_, extFix_short⟩
  by_contra hn
  rw [extFix_ok (Nat.not_lt.1 hn)] at h
  cases h

/-- A buffer that holds the variable header is not incomplete, whatever its Length (R92). -/
theorem extVar_incomplete_iff (W : Bytes) : extVar W = .error .incompleteData ↔ W.length < 7 := by
  refine ⟨fun h => ?_, extVar_short⟩
  by_contra hn
  obtain ht | ho := Nat.lt_or_ge W.length (7 + be16 (slice W 5 7))
  · rw [extVar_truncated (Nat.not_lt.1 hn) ht] at h
    cases h
  · rw [extVar_ok ho] at h
    cases h

/-! ## ExtFix and ExtVar of a frame given by its fields -/

/-- Settles O14: of at least 514 bytes the payload is the 509 behind the header. -/
theorem fixedExtractionContract : Obligations.FixedExtractionContract := by
  refine ⟨extFix_incomplete_iff, fun H raw X hH hraw => ?_⟩
  have hpay : slice (H ++ raw ++ X) 5 514 = raw := by
    rw [List.append_assoc]
    exact slice_append hH (by rw [hraw])
  have hlen : 514 ≤ (H ++ raw ++ X).length := by
    rw [List.length_append, List.length_append, hH, hraw]
    exact Nat.le_add_right _ _
  rw [extFix_ok hlen, hpay]

/-- The Length that a variable header declares (R54, R56). -/
theorem be16_variableHeader {H : Bytes} (hH : H.length = 5) (l1 l0 : Byte) (R : Bytes) :
    be16 (slice (H ++ [l1, l0] ++ R) 5 7) = l1.toNat * 256 + l0.toNat := by
  have h : slice (H ++ ([l1, l0] ++ R)) 5 7 = [l1, l0] := slice_append hH rfl
  rw [List.append_assoc, h, be16_pair]

/-- Settles O15: behind the seven bytes of the variable header stand fewer bytes than its Length declares, or the body. -/
theorem variableExtractionContract : Obligations.VariableExtractionContract := by
  refine ⟨extVar_incomplete_iff, fun H R l1 l0 hH hR => ?_, fun H body X l1 l0 hH hbody => ?_⟩
  · have hlen : (H ++ [l1, l0] ++ R).length = 7 + R.length := by rw [List.length_append, List.length_append, hH]; rfl
    refine extVar_truncated (by omega) ?_
    rw [be16_variableHeader hH]
    omega
  · have hhdr : (H ++ [l1, l0]).length = 7 := by rw [List.length_append, hH]; rfl
    have hL : be16 (slice (H ++ [l1, l0] ++ body ++ X) 5 7) = body.length := by
      rw [List.append_assoc _ body, be16_variableHeader hH, hbody]
    have hpay : slice (H ++ [l1, l0] ++ body ++ X) 7 (7 + body.length) = body := by
      rw [List.append_assoc _ body]
      exact slice_append hhdr rfl
    rw [extVar_ok, hL, hpay]
    rw [hL, List.length_append, List.length_append, hhdr]
    exact Nat.le_add_right _ _

/-! ## EXT.FIX and EXT.VAR as stages -/

theorem State.answerBody_gaveError (s : State) (c : CircId) (m : Command) {x : Except DecodeError Bytes} {e : DecodeError}
    (h : x = .error e) : GaveError s (s.answerBody c m x) e.kind := by
  subst h
  exact s.raise_gaveError e.kind

theorem State.answerBody_gaveCell (s : State) (c : CircId) (m : Command) {x : Except DecodeError Bytes} {body : Bytes}
    (h : x = .ok body) : GaveCell s (s.answerBody c m x) ⟨c, m, body⟩ := by
  subst h
  exact s.answerCell_gaveCell ⟨c, m, body⟩

/-- EXT.FIX answers what ExtFix gives, with the transient circuit id and the governing command (R28, R90). -/
theorem exec_extFix (m : Command) (s : State) : exec (.extFix m) s = .next (s.answerBody s.circ m (extFix s.input)) := by
  rw [exec, execExtFix]
  cases extFix s.input <;> rfl

/-- EXT.VAR answers what ExtVar gives, likewise (R28, R92). -/
theorem exec_extVar (m : Command) (s : State) : exec (.extVar m) s = .next (s.answerBody s.circ m (extVar s.input)) := by
  rw [exec, execExtVar]
  cases extVar s.input <;> rfl

/-- Settles O44: each extraction answers, as its function does for the length of the input. -/
theorem extractionStages : Obligations.ExtractionStages := by
  intro s m
  rw [← s.input_length, exec_extFix, exec_extVar]
  exact ⟨fun hn => ⟨_, rfl, s.answerBody_gaveError s.circ m (extFix_short hn)⟩,
    fun hn => ⟨_, rfl, s.answerBody_gaveCell s.circ m (extFix_ok hn)⟩,
    fun hn => ⟨_, rfl, s.answerBody_gaveError s.circ m (extVar_short hn)⟩,
    fun h7 hn => ⟨_, rfl, s.answerBody_gaveError s.circ m (extVar_truncated h7 hn)⟩,
    fun _ hn => ⟨_, rfl, s.answerBody_gaveCell s.circ m (extVar_ok hn)⟩⟩

end Sys2Proof.Machine
end

section
/-! PROOFS. The policy validator, as functions of the command, the circuit id and the length, and as stages (43_policy_validator.md R95,
R96, R97, R99; R28). -/

namespace Sys2Proof.Machine

/-! ## ValLen by the framing and the length -/

theorem valLen_tooLong_iff (m : Command) (n : Nat) : valLen m n = .error .bodyTooLong ↔ isVar m = false ∧ 510 ≤ n :=
  Ne.ite_eq_left_iff (by decide)

theorem valLen_ok_iff (m : Command) (n : Nat) : valLen m n = .ok () ↔ ¬ (isVar m = false ∧ 510 ≤ n) :=
  Ne.ite_eq_right_iff (by decide)

/-- A variable-length command passes at any length, and a length of at most 509 passes for any command (R95). -/
theorem valLen_pass {m : Command} {n : Nat} (h : isVar m = true ∨ n ≤ 509) : valLen m n = .ok () := by
  rw [valLen_ok_iff]
  rintro ⟨hm, hn⟩
  obtain hv | hs := h
  · simp [hm] at hv
  · omega

/-! ## ValCirc by the verdict of the policy -/

section
variable {c : CircId} {m : Command}

theorem valCirc_forbidden_iff :
    valCirc c m = .error (.circuitIdPolicyViolation .forbidden) ↔ policyCheck c m = .forbidden := by
  rw [valCirc]
  cases policyCheck c m <;> decide

theorem valCirc_required_iff :
    valCirc c m = .error (.circuitIdPolicyViolation .required) ↔ policyCheck c m = .required := by
  rw [valCirc]
  cases policyCheck c m <;> decide

theorem valCirc_ok_iff : valCirc c m = .ok () ↔ policyCheck c m = .pass := by
  rw [valCirc]
  cases policyCheck c m <;> decide

/-- No policy applies to the commands 129 to 255 (R62, R74). -/
theorem policyCheck_unconstrained (h : 129 ≤ m.toNat) : policyCheck c m = .pass := by
  rw [policyCheck, (policyClass_unconstrained_iff m).2 h, policyVerdict]

end

/-- Settles O16: ValLen by its condition; ValCirc by the verdict, and the verdict by the class. -/
theorem validatorChecks : Obligations.ValidatorChecks := by
  intro c m n
  refine ⟨valLen_tooLong_iff m n, valLen_ok_iff m n, ?_, ?_, fun h => valCirc_pass (policyCheck_unconstrained h), valCirc_ok_iff⟩
  · rw [valCirc_forbidden_iff, policyCheck, policyVerdict_forbidden_iff, policyClass_absent_iff]
  · rw [valCirc_required_iff, policyCheck, policyVerdict_required_iff, policyClass_present_iff]

/-! ## Validate -/

/-- Validate passes exactly what both checks pass (R97). -/
theorem validate_ok_iff {c : CircId} {m : Command} {n : Nat} :
    validate c m n = .ok () ↔ valLen m n = .ok () ∧ valCirc c m = .ok () := by
  rw [validate]
  cases valLen m n <;> simp

/-- Settles O17: the length check decides first, and a pass of both checks is a pass of the length bound and of the policy. -/
theorem validateOrder : Obligations.ValidateOrder := by
  intro c m n
  refine ⟨fun hm hn => validate_tooLong hm hn c, fun h => validate_of_valLen ((valLen_ok_iff m n).2 h), fun h => ?_⟩
  have hpass : policyCheck c m = .pass := valCirc_ok_iff.1 (validate_ok_iff.1 h).2
  obtain ⟨habsent, hpresent⟩ := policyVerdict_pass_iff.1 hpass
  exact ⟨validate_length h, not_and_not_right.1 habsent, not_and.1 hpresent⟩

/-! ## VAL.LEN, VAL.CIRC and VALIDATE as stages -/

/-- What a check of the validator makes of a transaction: the error response, or the cursor moved on and nothing else (R28). -/
def State.afterCheck (s : State) (next : Stage) : Except EncodeError Unit → State
  | .error e => s.raise e.kind
  | .ok () => { s with stage := next }

theorem State.afterCheck_gaveError (s : State) (next : Stage) {x : Except EncodeError Unit} {e : EncodeError} (h : x = .error e) :
    GaveError s (s.afterCheck next x) e.kind := by
  subst h
  exact s.raise_gaveError e.kind

theorem State.afterCheck_ok (s : State) (next : Stage) {x : Except EncodeError Unit} (h : x = .ok ()) :
    s.afterCheck next x = { s with stage := next } := by
  subst h
  rfl

theorem exec_valLen (m : Command) (s : State) : exec (.valLen m) s = .next (s.afterCheck .e1 (valLen m s.inLen)) := by
  rw [exec, execValLen]
  cases valLen m s.inLen <;> rfl

theorem exec_valCirc (m : Command) (s : State) : exec (.valCirc m) s = .next (s.afterCheck .e2 (valCirc s.reqCircId m)) := by
  rw [exec, execValCirc]
  cases valCirc s.reqCircId m <;> rfl

theorem exec_validate (m : Command) (s : State) :
    exec (.validate m) s = .next (s.afterCheck .e2 (validate s.reqCircId m s.inLen)) := by
  rw [exec, execValidate]
  cases validate s.reqCircId m s.inLen <;> rfl

/-- Settles O45: each stage leaves what its check gives, and Validate is ValCirc where ValLen passes. -/
theorem validationStages : Obligations.ValidationStages := by
  intro s m
  rw [exec_valLen, exec_valCirc, exec_validate]
  exact ⟨fun hm hn => ⟨_, rfl, s.afterCheck_gaveError .e1 ((valLen_tooLong_iff m _).2 ⟨hm, hn⟩)⟩,
    fun h => congrArg _ (s.afterCheck_ok .e1 (valLen_pass h)),
    fun hp => ⟨_, rfl, s.afterCheck_gaveError .e2 (valCirc_forbidden_iff.2 hp)⟩,
    fun hp => ⟨_, rfl, s.afterCheck_gaveError .e2 (valCirc_required_iff.2 hp)⟩,
    fun hp => congrArg _ (s.afterCheck_ok .e2 (valCirc_pass hp)),
    fun hm hn => ⟨_, rfl, s.afterCheck_gaveError .e2 (validate_tooLong hm hn _)⟩,
    fun h => by rw [validate_of_valLen (valLen_pass h)]⟩

end Sys2Proof.Machine
end

section
/-! PROOFS. The frame encoder, as functions of the circuit id, the command and the body, and as stages (44_frame_encoder.md R100, R102,
R104; 20_memory.md R39; R28). -/

namespace Sys2Proof.Machine

/-! ## EncHdr -/

/-- The byte `k` bytes above the last one of a number is a slice of its bits (R36). -/
theorem ofNat_div_pow_eq_extract {w : Nat} (x : BitVec w) (k : Nat) :
    BitVec.ofNat 8 (x.toNat / 256 ^ k) = x.extractLsb' (8 * k) 8 := by
  rw [BitVec.extractLsb', Nat.shiftRight_eq_div_pow, pow_mul]
  rfl

theorem toBe32_eq (c : CircId) :
    toBe32 c = [c.extractLsb' 24 8, c.extractLsb' 16 8, c.extractLsb' 8 8, c.extractLsb' 0 8] := by
  simp only [toBe32, Config.circIdLen, toBe, ofNat_div_pow_eq_extract]

/-- Settles O18: the header is the four bytes of the circuit id and the command. -/
theorem headerEncoding : Obligations.HeaderEncoding := by
  intro c m
  rw [encHdr, toBe32_eq]
  rfl

/-! ## EncVar -/

theorem encVar_tooLong {body : Bytes} (h : 65535 < body.length) : encVar body = .error .bodyTooLong := if_pos h

/-- Settles O19: the Length field holds every length up to 65535, and from 65536 on there is no encoding. -/
theorem variablePayloadEncoding : Obligations.VariablePayloadEncoding := by
  intro body
  refine ⟨fun hn => ⟨BitVec.ofNat 8 (body.length / 256), BitVec.ofNat 8 body.length, ?_, ?_⟩, encVar_tooLong⟩
  · rw [encVar_ok hn, toBe16_eq]
    rfl
  · rw [← be16_pair, ← toBe16_eq, be16_toBe16 hn]

/-! ## EncFix -/

theorem encFix_getElem?_body {body : Bytes} {i : Nat} (h : i < body.length) : (encFix body)[i]? = body[i]? :=
  List.getElem?_append_left h

theorem encFix_getElem?_padding {body : Bytes} {i : Nat} (h : body.length ≤ i) (hi : i < 509) :
    (encFix body)[i]? = some 0#8 := by
  rw [encFix, List.getElem?_append_right h]
  exact List.getElem?_replicate_of_lt (by rw [Config.cellDataLen]; omega)

/-- Settles O20: the padding fills up what the body leaves of the 509 bytes. -/
theorem fixedPayloadEncoding : Obligations.FixedPayloadEncoding := fun _ hn =>
  ⟨encFix_length_eq hn, List.take_left, fun _ => encFix_getElem?_padding⟩

/-! ## ENC.HDR as a stage -/

/-- Settles O46: the header is written to OBUF at 0, and every address from 5 on reads what it did. -/
theorem headerEncodeStage : Obligations.HeaderEncodeStage := by
  intro s m
  refine ⟨_, rfl, rfl, fun a => ?_, SameRequestSide.refl s, ⟨rfl, rfl, rfl, rfl, rfl, rfl, rfl, rfl⟩, rfl, rfl⟩
  rw [Mem.read_writeBytes, encHdr_length, headerEncoding]
  match a with
  | 0 | 1 | 2 | 3 | 4 => rfl
  | a + 5 => simp

/-! ## ENC.VAR and ENC.FIX as stages -/

theorem State.input_getElem?_eq (s : State) (i : Nat) :
    s.input[i]? = if i < s.inLen then some (s.ibufByte i) else none := by
  split
  · exact s.input_getElem? i (by assumption)
  · exact List.getElem?_eq_none (by rw [s.input_length]; omega)

theorem State.answerFrameTail_read_header (s : State) (T : Bytes) {a : Nat} (h : a < 5) :
    (s.answerFrameTail T).obuf.read a = s.obuf.read a := by
  rw [s.answerFrameTail_read, if_pos h]

theorem State.answerFrameTail_read_tail (s : State) (T : Bytes) (i : Nat) :
    (s.answerFrameTail T).obuf.read (5 + i) = T[i]? := by
  rw [s.answerFrameTail_read, if_neg (by omega), Nat.add_sub_cancel_left]
  split
  · rfl
  · exact (List.getElem?_eq_none (by omega)).symm

theorem exec_encVar_tooLong {s : State} (h : 65535 < s.inLen) (m : Command) :
    exec (.encVar m) s = .next (s.raise .bodyTooLong) := by
  rw [exec, execEncVar, encVar_tooLong (by rwa [s.input_length])]
  rfl

theorem exec_encVar_ok {s : State} (h : s.inLen ≤ 65535) (m : Command) :
    exec (.encVar m) s = .next (s.answerFrameTail (toBe16 s.inLen ++ s.input)) := by
  rw [exec, execEncVar, encVar_ok (by rwa [s.input_length]), s.input_length]

theorem exec_encFix_ok {s : State} (h : s.inLen ≤ 509) (m : Command) :
    exec (.encFix m) s = .next (s.answerFrameTail (encFix s.input)) := if_neg (Nat.not_lt.2 h)

/-- Settles O47: behind the header stand the two bytes of the Length, then the input. -/
theorem variableEncodeStage : Obligations.VariableEncodeStage := by
  refine fun s m => ⟨fun hn => ⟨_, exec_encVar_tooLong hn m, s.raise_gaveError _⟩, fun hn =>
    ⟨_, exec_encVar_ok hn m, s.respond_finished 0, rfl, ?_, fun a => ?_⟩⟩
  · rw [State.answerFrameTail_outLen, List.length_append, toBe16_length, s.input_length, Config.hdrLen, ← Nat.add_assoc]
  · obtain ha | ⟨i, rfl⟩ := (Nat.lt_or_ge a 5).imp_right Nat.exists_eq_add_of_le
    · rw [if_pos ha, State.answerFrameTail_read_header _ _ ha]
    rw [if_neg (by omega), State.answerFrameTail_read_tail, toBe16_eq]
    match i with
    | 0 | 1 => rfl
    | i + 2 =>
      have hi : 5 + (i + 2) = 7 + i := by omega
      have hT : ([BitVec.ofNat 8 (s.inLen / 256), BitVec.ofNat 8 s.inLen] ++ s.input)[i + 2]? = s.input[i]? := rfl
      rw [hT, hi, if_neg (by omega), if_neg (by omega), Nat.add_sub_cancel_left, s.input_getElem?_eq]
      simp only [Nat.add_lt_add_iff_left]

/-- Settles O48: behind the header stands the input, then the padding; a longer input faults (log 13). -/
theorem fixedEncodeStage : Obligations.FixedEncodeStage := by
  refine fun s m => ⟨fun hn => ?_, fun hn => if_pos hn⟩
  have hlen : (encFix s.input).length = 509 := encFix_length_eq (by rwa [s.input_length])
  refine ⟨_, exec_encFix_ok hn m, s.respond_finished 0, rfl, ?_, fun a => ?_⟩
  · rw [State.answerFrameTail_outLen, hlen, Config.hdrLen]
  · obtain ha | ⟨i, rfl⟩ := (Nat.lt_or_ge a 5).imp_right Nat.exists_eq_add_of_le
    · rw [if_pos ha, State.answerFrameTail_read_header _ _ ha]
    rw [if_neg (by omega), State.answerFrameTail_read_tail, Nat.add_sub_cancel_left]
    by_cases hbody : i < s.inLen
    · rw [if_pos (by omega), encFix_getElem?_body (by rwa [s.input_length]), s.input_getElem? i hbody]
    · rw [if_neg (by omega)]
      split
      next hpad => exact encFix_getElem?_padding (by rw [s.input_length]; omega) (by omega)
      next hend => exact List.getElem?_eq_none (by rw [hlen]; omega)

end Sys2Proof.Machine
end

section
/-! PROOFS. The two operations case by case (45_operations.md R107, R108, R109). -/

namespace Sys2Proof.Machine

/-- Below five bytes there is no header to decode (R107). -/
theorem decodeCell_short {W : Bytes} (hn : W.length < 5) : decodeCell W = .error .incompleteData := by
  rw [decodeCell, hdrParse_short hn]

/-- Settles O21: below five bytes there is no header; from there on `decode` is the class rule of the framing of byte 4. -/
theorem decodeCases : Obligations.DecodeCases := by
  refine fun W => ⟨decodeCell_short, fun h => ?_⟩
  have hW : W[4]? = some W[4] := List.getElem?_eq_getElem h
  refine ⟨fun hm hn => ?_, fun hm hn => ?_, fun hm hn => ?_, fun hm h7 hn => ?_, fun hm hn => ?_⟩
  · rw [decodeCell_fixed hm hW, classDecodeFixed_short hn]
  · rw [decodeCell_fixed hm hW, classDecodeFixed_ok hn]
  · rw [decodeCell_var hm hW, classDecodeVar_short hn]
  · rw [decodeCell_var hm hW, classDecodeVar_truncated h7 hn]
  · rw [decodeCell_var hm hW, classDecodeVar_ok hn]

/-- Where the length check passes, a policy violation is the answer for either framing (R109). -/
theorem encodeCell_policyError {c : CircId} {m : Command} {body : Bytes} {r : Reason}
    (hn : isVar m = true ∨ body.length ≤ 509) (hp : valCirc c m = .error (.circuitIdPolicyViolation r)) :
    encodeCell c m body = .error (.circuitIdPolicyViolation r) := by
  rw [encodeCell, validate_of_valLen (valLen_pass hn), hp]

/-- Settles O22: the validator answers first, by its own order, and then the class rule of the framing. -/
theorem encodeCases : Obligations.EncodeCases := by
  refine fun c m body => ⟨fun hm hn => ?_, fun hn hp => encodeCell_policyError hn (valCirc_forbidden_iff.2 hp),
    fun hn hp => encodeCell_policyError hn (valCirc_required_iff.2 hp), fun hm hp hn => ?_, fun hm hp hn => ?_, fun hm hp hn => ?_⟩
  · rw [encodeCell_fixed hm, classEncodeFixed_tooLong hn]
  · rw [encodeCell_var hm, classEncodeVar_tooLong hp hn]
  · rw [encodeCell_var hm, classEncodeVar_ok hp hn]
  · rw [encodeCell_fixed hm, classEncodeFixed_ok hn hp]

end Sys2Proof.Machine
end

section
/-! PROOFS. The frame of a cell (45_operations.md R108, R110): `decode` gives a cell exactly if the buffer starts with the cell's frame,
and `encode` gives the frame of the cells it admits. The laws of R111 to R119 are read off these two. -/

namespace Sys2Proof.Machine

/-! ## The frame of a cell -/

/-- The bytes of a cell on the wire: the header, then the payload of its framing (R53, R54, R108). -/
def ChannelCell.frame (x : ChannelCell) : Bytes :=
  encHdr x.circ x.cmd ++ if isVar x.cmd then toBe16 x.body.length ++ x.body else encFix x.body

/-- The body is one its framing can carry (R110). -/
def ChannelCell.Fits (x : ChannelCell) : Prop := x.body.length ≤ if isVar x.cmd then 65535 else 509

/-- What a frame keeps of a cell: all of it, but for the trailing zeros of a fixed-length body (R114, R115). -/
def ChannelCell.kept (x : ChannelCell) : ChannelCell := { x with body := if isVar x.cmd then x.body else strip x.body }

section
variable {x : ChannelCell}

theorem ChannelCell.frame_var (hm : isVar x.cmd = true) :
    x.frame = encHdr x.circ x.cmd ++ (toBe16 x.body.length ++ x.body) := by
  rw [ChannelCell.frame, if_pos hm]

theorem ChannelCell.frame_fixed (hm : isVar x.cmd = false) : x.frame = encHdr x.circ x.cmd ++ encFix x.body := by
  rw [ChannelCell.frame, if_neg (by simp [hm])]

theorem ChannelCell.fits_var (hm : isVar x.cmd = true) : x.Fits ↔ x.body.length ≤ 65535 := by
  rw [ChannelCell.Fits, if_pos hm]

theorem ChannelCell.fits_fixed (hm : isVar x.cmd = false) : x.Fits ↔ x.body.length ≤ 509 := by
  rw [ChannelCell.Fits, if_neg (by simp [hm])]

theorem ChannelCell.kept_var (hm : isVar x.cmd = true) : x.kept = x := by
  rw [ChannelCell.kept, if_pos hm]

theorem ChannelCell.kept_fixed (hm : isVar x.cmd = false) : x.kept = ⟨x.circ, x.cmd, strip x.body⟩ := by
  rw [ChannelCell.kept, if_neg (by simp [hm])]

/-- The bodies a fixed-length frame loses nothing of are the stripped ones. -/
theorem ChannelCell.kept_eq_self_iff (hm : isVar x.cmd = false) : x.kept = x ↔ strip x.body = x.body := by
  rw [ChannelCell.kept_fixed hm]
  obtain ⟨c, m, body⟩ := x
  simp

theorem frameLen_var {m : Command} (hm : isVar m = true) (n : Nat) : frameLen m n = 7 + n := if_pos hm

theorem frameLen_fixed {m : Command} (hm : isVar m = false) (n : Nat) : frameLen m n = 514 := if_neg (by simp [hm])

/-- R110 gives the length of the frame. -/
theorem ChannelCell.frame_length (h : x.Fits) : x.frame.length = frameLen x.cmd x.body.length := by
  cases hm : isVar x.cmd with
  | true =>
    rw [frame_var hm, frameLen_var hm, List.length_append, List.length_append, encHdr_length, toBe16_length, ← Nat.add_assoc]
  | false =>
    rw [frame_fixed hm, frameLen_fixed hm, List.length_append, encHdr_length, encFix_length_eq ((fits_fixed hm).1 h)]

theorem ChannelCell.header_prefix_frame (x : ChannelCell) : encHdr x.circ x.cmd <+: x.frame := List.prefix_append ..

/-- The variable header, Length included (R54). -/
theorem ChannelCell.varHeader_prefix_frame (hm : isVar x.cmd = true) :
    encHdr x.circ x.cmd ++ toBe16 x.body.length <+: x.frame := by
  rw [frame_var hm, ← List.append_assoc]
  exact List.prefix_append ..

end

/-! ## The fields of a buffer that starts with a header -/

theorem hdrParse_of_header_prefix {c : CircId} {m : Command} {W : Bytes} (h : encHdr c m <+: W) : hdrParse W = .ok (c, m) := by
  obtain ⟨X, rfl⟩ := h
  exact hdrParse_encHdr c m X

theorem getElem?_of_header_prefix {c : CircId} {m : Command} {W : Bytes} (h : encHdr c m <+: W) : W[4]? = some m := by
  obtain ⟨X, rfl⟩ := h
  rfl

/-- The Length read behind a header is the one written there. -/
theorem be16_of_varHeader_prefix {H W : Bytes} {n : Nat} (hH : H.length = 5) (hn : n ≤ 65535) (h : H ++ toBe16 n <+: W) :
    be16 (slice W 5 7) = n := by
  obtain ⟨X, rfl⟩ := h
  have hL : slice (H ++ (toBe16 n ++ X)) 5 7 = toBe16 n := slice_append hH rfl
  rw [List.append_assoc, hL, be16_toBe16 hn]

/-! ## decode of a buffer that starts with a frame -/

theorem extFix_encFix_append {H body : Bytes} (hH : H.length = 5) (hn : body.length ≤ 509) (X : Bytes) :
    extFix (H ++ encFix body ++ X) = .ok (strip body) := by
  rw [fixedExtractionContract.2 H _ X hH (encFix_length_eq hn), encFix, strip_append_zeros]

theorem extVar_encVar_append {H body : Bytes} (hH : H.length = 5) (hn : body.length ≤ 65535) (X : Bytes) :
    extVar (H ++ (toBe16 body.length ++ body) ++ X) = .ok body := by
  have hlen := be16_toBe16 hn
  rw [toBe16_eq, be16_pair] at hlen
  rw [← List.append_assoc, toBe16_eq]
  exact variableExtractionContract.2.2 H body X _ _ hH hlen.symm

/-- A buffer that starts with a frame decodes to what the frame keeps of its cell, whatever follows (R113 to R115). -/
theorem decodeCell_of_frame_prefix {x : ChannelCell} {W : Bytes} (hfits : x.Fits) (h : x.frame <+: W) :
    decodeCell W = .ok x.kept := by
  rw [decodeCell_header (hdrParse_of_header_prefix (x.header_prefix_frame.trans h))]
  obtain ⟨X, rfl⟩ := h
  cases hm : isVar x.cmd with
  | true =>
    rw [if_pos rfl, ChannelCell.frame_var hm, extVar_encVar_append (encHdr_length ..) ((ChannelCell.fits_var hm).1 hfits),
      ChannelCell.kept_var hm]
    rfl
  | false =>
    rw [if_neg nofun, ChannelCell.frame_fixed hm, extFix_encFix_append (encHdr_length ..) ((ChannelCell.fits_fixed hm).1 hfits),
      ChannelCell.kept_fixed hm]
    rfl

/-! ## What decode says of the buffer -/

theorem slice_length {W : Bytes} {a b : Nat} (h : b ≤ W.length) : (slice W a b).length = b - a := by
  rw [slice, List.length_take, List.length_drop]
  omega

theorem take_append_slice (W : Bytes) {a b : Nat} (h : a ≤ b) : W.take a ++ slice W a b = W.take b := by
  rw [slice, ← List.take_add, Nat.add_sub_cancel' h]

/-- The header encodes back to the bytes it was read from (R85, R100). -/
theorem encHdr_of_hdrParse {W : Bytes} {c : CircId} {m : Command} (h : hdrParse W = .ok (c, m)) : encHdr c m = W.take 5 := by
  rw [hdrParse_eq] at h
  split at h
  next => cases h
  next hn =>
    cases h
    have hlen : (slice W 0 4).length = 4 := slice_length (by omega)
    rw [encHdr, circField_eq, toBe32_be32 hlen]
    exact List.take_append_getElem _

/-- A decoded body was extracted behind the header, by the framing of the command (R107). -/
theorem decodeCell_ok_inv {W : Bytes} {x : ChannelCell} (h : decodeCell W = .ok x) :
    hdrParse W = .ok (x.circ, x.cmd) ∧ (if isVar x.cmd then extVar W else extFix W) = .ok x.body := by
  unfold decodeCell at h
  split at h
  next => cases h
  next c m hp =>
    split at h
    next => cases h
    next body hb =>
      cases h
      exact ⟨hp, hb⟩

/-- A full payload is the encoding of what Strip leaves of it (R104, R88). -/
theorem encFix_strip {P : Bytes} (hP : P.length = 509) : encFix (strip P) = P := by
  rw [encFix, Config.cellDataLen, ← hP, strip_append_padding]

/-- Fixed-length extraction takes a stripped body from the 509 bytes that encode it (R90, R91). -/
theorem extFix_ok_inv {W body : Bytes} (h : extFix W = .ok body) :
    body.length ≤ 509 ∧ strip body = body ∧ encFix body = slice W 5 514 := by
  have hn : 514 ≤ W.length := Nat.not_lt.1 fun hlt => by rw [extFix_short hlt] at h; cases h
  have hP : (slice W 5 514).length = 509 := slice_length hn
  rw [extFix_ok hn] at h
  cases h
  exact ⟨(strip_length_le _).trans hP.le, strip_idempotent _, encFix_strip hP⟩

/-- Variable-length extraction takes the body from behind the Length that counts it (R92). -/
theorem extVar_ok_inv {W body : Bytes} (h : extVar W = .ok body) :
    body.length ≤ 65535 ∧ toBe16 body.length = slice W 5 7 ∧ body = slice W 7 (7 + body.length) := by
  rw [extVar_eq] at h
  split at h
  next => cases h
  next h7 =>
    split at h
    next => cases h
    next hn =>
      cases h
      have hL : (slice W 7 (7 + be16 (slice W 5 7))).length = be16 (slice W 5 7) := by
        rw [slice_length (Nat.not_lt.1 hn), Nat.add_sub_cancel_left]
      rw [hL]
      exact ⟨lengthField_le W, toBe16_be16 (slice_length (Nat.not_lt.1 h7)), rfl⟩

/-- A decoded cell fits its framing, is kept whole by its frame, and its frame starts the buffer (R112, R118). -/
theorem frame_prefix_of_decodeCell {W : Bytes} {x : ChannelCell} (h : decodeCell W = .ok x) :
    x.Fits ∧ x.kept = x ∧ x.frame <+: W := by
  obtain ⟨hhdr, hbody⟩ := decodeCell_ok_inv h
  have hH := encHdr_of_hdrParse hhdr
  cases hm : isVar x.cmd with
  | true =>
    rw [hm] at hbody
    obtain ⟨hn, hL, hP⟩ := extVar_ok_inv hbody
    have hframe : x.frame = W.take (7 + x.body.length) :=
      calc x.frame = encHdr x.circ x.cmd ++ toBe16 x.body.length ++ x.body := by
            rw [ChannelCell.frame_var hm, List.append_assoc]
        _ = W.take 7 ++ x.body := by rw [hH, hL, take_append_slice W (by decide)]
        _ = W.take 7 ++ slice W 7 (7 + x.body.length) := by rw [← hP]
        _ = W.take (7 + x.body.length) := take_append_slice W (Nat.le_add_right ..)
    exact ⟨(ChannelCell.fits_var hm).2 hn, ChannelCell.kept_var hm, hframe ▸ List.take_prefix ..⟩
  | false =>
    rw [hm] at hbody
    obtain ⟨hn, hstrip, hP⟩ := extFix_ok_inv hbody
    have hframe : x.frame = W.take 514 := by rw [ChannelCell.frame_fixed hm, hH, hP, take_append_slice W (by decide)]
    exact ⟨(ChannelCell.fits_fixed hm).2 hn, (ChannelCell.kept_eq_self_iff hm).2 hstrip, hframe ▸ List.take_prefix ..⟩

/-! ## What encode gives -/

/-- A request that is encoded has passed its policy and fits its framing (R99, R108). -/
theorem admitted_of_encodeCell {c : CircId} {m : Command} {body W : Bytes} (h : encodeCell c m body = .ok W) :
    policyCheck c m = .pass ∧ ChannelCell.Fits ⟨c, m, body⟩ := by
  have hval : validate c m body.length = .ok () := by
    rw [encodeCell] at h
    split at h
    next => cases h
    next hv => exact hv
  have hp : policyCheck c m = .pass := valCirc_ok_iff.1 (validate_ok_iff.1 hval).2
  refine ⟨hp, ?_⟩
  cases hm : isVar m with
  | true =>
    refine (ChannelCell.fits_var hm).2 (Nat.not_lt.1 fun hn => ?_)
    rw [encodeCell_var hm, classEncodeVar_tooLong hp hn] at h
    cases h
  | false => exact (ChannelCell.fits_fixed hm).2 (validate_length hval hm)

theorem encodeCell_eq_frame {x : ChannelCell} (hp : policyCheck x.circ x.cmd = .pass) (hfits : x.Fits) :
    encodeCell x.circ x.cmd x.body = .ok x.frame := by
  cases hm : isVar x.cmd with
  | true => rw [encodeCell_varFrame hm hp ((ChannelCell.fits_var hm).1 hfits), ChannelCell.frame_var hm]
  | false => rw [encodeCell_fixedFrame hm hp ((ChannelCell.fits_fixed hm).1 hfits), ChannelCell.frame_fixed hm]

/-- What `encode` gives is the frame of the cell, which fits (R108). -/
theorem frame_of_encodeCell {c : CircId} {m : Command} {body W : Bytes} (h : encodeCell c m body = .ok W) :
    ChannelCell.Fits ⟨c, m, body⟩ ∧ W = ChannelCell.frame ⟨c, m, body⟩ := by
  obtain ⟨hp, hfits⟩ := admitted_of_encodeCell h
  exact ⟨hfits, Except.ok.inj (h.symm.trans (encodeCell_eq_frame (x := ⟨c, m, body⟩) hp hfits))⟩

end Sys2Proof.Machine
end

section
/-! PROOFS. The laws of the two operations (45_operations.md R110 to R119), from the frame of a cell. -/

namespace Sys2Proof.Machine

/-! ## Re-encoding -/

theorem ChannelCell.Fits.var_or_short {x : ChannelCell} (h : x.Fits) : isVar x.cmd = true ∨ x.body.length ≤ 509 := by
  cases hm : isVar x.cmd with
  | true => exact .inl rfl
  | false => exact .inr ((ChannelCell.fits_fixed hm).1 h)

/-- Settles O34: the cell's frame starts the buffer, and `encode` gives that frame, or the policy's error since the body fits. -/
theorem reencodingRestoresTheFrame : Obligations.ReencodingRestoresTheFrame := by
  intro W x h
  obtain ⟨hfits, -, hprefix⟩ := frame_prefix_of_decodeCell h
  refine ⟨fun hp => ?_, fun hp => encodeCell_policyError hfits.var_or_short (valCirc_forbidden_iff.2 hp),
    fun hp => encodeCell_policyError hfits.var_or_short (valCirc_required_iff.2 hp)⟩
  rw [encodeCell_eq_frame hp hfits, ← ChannelCell.frame_length hfits, ← List.prefix_iff_eq_take.1 hprefix]

/-! ## The round trip -/

/-- What is encoded decodes to what the frame keeps of it (R114, R115). -/
theorem decodeCell_of_encodeCell {c : CircId} {m : Command} {body W : Bytes} (h : encodeCell c m body = .ok W) :
    decodeCell W = .ok (ChannelCell.kept ⟨c, m, body⟩) := by
  obtain ⟨hfits, rfl⟩ := frame_of_encodeCell h
  exact decodeCell_of_frame_prefix hfits (List.prefix_refl _)

/-- Settles O29: a variable-length frame keeps the whole cell. -/
theorem variableRoundTrip : Obligations.VariableRoundTrip := by
  intro c m body W hm h
  rw [decodeCell_of_encodeCell h, ChannelCell.kept_var hm]

/-- Settles O30: a fixed-length frame keeps the stripped body, which is the body exactly if that does not end in a zero byte. -/
theorem fixedRoundTrip : Obligations.FixedRoundTrip := by
  intro c m body W hm h
  rw [decodeCell_of_encodeCell h, Except.ok.injEq, Except.ok.injEq]
  exact ⟨ChannelCell.kept_fixed hm, (ChannelCell.kept_eq_self_iff hm).trans (strip_eq_self_iff body)⟩

/-- ROUNDTRIP of an admissible cell of a fixed-length command (R71, R115). -/
theorem roundtrip_fixed {c : CircId} {m : Command} {body : Bytes} (hm : isVar m = false) (hp : policyCheck c m = .pass)
    (hn : body.length ≤ 509) : roundtrip c m body = .cell ⟨c, m, strip body⟩ := by
  rw [roundtrip, encodeCell_fixedFrame hm hp hn]
  simp only [decodeCell_fixedFrame hm hn]

/-- Of the fixed-length commands all but 0 need a circuit id (R83). -/
theorem policyClass_of_fixed {m : Command} (hm : isVar m = false) (h0 : m ≠ 0#8) : policyClass m = .present := by
  obtain ⟨-, hunconstrained, habsent, -⟩ := policyFollowsFraming m
  cases hp : policyClass m with
  | present => rfl
  | absent => exact absurd (habsent.1 ⟨hp, hm⟩) h0
  | unconstrained => simp [hunconstrained hp] at hm

/-- Settles O31: circuit id 5 is present, as all fixed-length commands but 0 require; command 0 requires it absent. -/
theorem fixedRoundTripQualified : Obligations.FixedRoundTripQualified := by
  refine fun body hn => ⟨fun m hm h0 => ?_, roundtrip_fixed rfl rfl hn, ?_⟩
  · have hp : policyCheck 5 m = .pass := by rw [policyCheck, policyClass_of_fixed hm h0, policyVerdict_present_pass (by decide)]
    exact roundtrip_fixed hm hp hn
  · exact encodeCell_policyError (.inr hn) rfl

/-! ## Bytes behind the frame -/

/-- Settles O32: in each of the three buffers the cell's frame comes first, and a decoded cell is kept whole by its frame. -/
theorem trailingBytesAreIgnored : Obligations.TrailingBytesAreIgnored := by
  intro W X x h
  obtain ⟨hfits, hkept, hprefix⟩ := frame_prefix_of_decodeCell h
  have hdecode {V : Bytes} (hV : x.frame <+: V) : decodeCell V = .ok x := by
    rw [decodeCell_of_frame_prefix hfits hV, hkept]
  have htake {k : Nat} (hk : frameLen x.cmd x.body.length = k) : decodeCell (W.take k) = .ok x :=
    hdecode (List.prefix_take_iff.2 ⟨hprefix, (ChannelCell.frame_length hfits).trans_le hk.le⟩)
  exact ⟨hdecode (hprefix.trans (List.prefix_append W X)), fun hm => htake (frameLen_fixed hm _),
    fun hm => htake (frameLen_var hm _)⟩

/-! ## What encode forgets -/

/-- Zeros that the padding would supply make no difference (R104). -/
theorem encFix_append_zeros {body : Bytes} {k : Nat} (h : body.length + k ≤ 509) : encFix (body ++ zeros k) = encFix body := by
  have hpad : 509 - body.length = k + (509 - (body ++ zeros k).length) := by
    rw [List.length_append, zeros, List.length_replicate]
    omega
  rw [encFix, encFix, Config.cellDataLen, hpad, zeros_add, List.append_assoc]

/-- Requests with one frame have one cell kept by it. -/
theorem kept_eq_of_encodeCell_eq {c c' : CircId} {m m' : Command} {b b' W : Bytes} (h : encodeCell c m b = .ok W)
    (h' : encodeCell c' m' b' = .ok W) : ChannelCell.kept ⟨c, m, b⟩ = ChannelCell.kept ⟨c', m', b'⟩ :=
  Except.ok.inj ((decodeCell_of_encodeCell h).symm.trans (decodeCell_of_encodeCell h'))

/-- Settles O33: padding is made of zeros already, and a frame determines the cell it keeps. -/
theorem encodeForgetsOnlyTrailingZeros : Obligations.EncodeForgetsOnlyTrailingZeros := by
  refine ⟨fun c m body k hm hn => ?_, fun c c' m m' b b' W hm h h' => ?_, fun c c' m m' b b' W hm hm' h h' => ?_⟩
  · have hlen : (body ++ zeros k).length ≤ 509 := by rwa [List.length_append, zeros, List.length_replicate]
    rw [encodeCell, encodeCell, validate_short hlen, validate_short (Nat.le_of_add_right_le hn), if_neg (by simp [hm]),
      if_neg (by simp [hm]), encFix_append_zeros hn]
  · have hkept := kept_eq_of_encodeCell_eq h h'
    obtain rfl : m = m' := congrArg ChannelCell.cmd hkept
    rw [ChannelCell.kept_fixed hm, ChannelCell.kept_fixed hm] at hkept
    obtain ⟨hc, -, hb⟩ := ChannelCell.mk.inj hkept
    exact ⟨hc, rfl, hb⟩
  · have hkept := kept_eq_of_encodeCell_eq h h'
    rw [ChannelCell.kept_var hm, ChannelCell.kept_var hm'] at hkept
    cases hkept
    exact ⟨rfl, rfl, rfl⟩

/-! ## Prefixes of a frame -/

/-- Cut before the end of what its framing asks for at least, a frame is incomplete (R119). -/
theorem decodeCell_take_incomplete {W : Bytes} {m : Command} {k : Nat} (hW : W[4]? = some m)
    (hk : k < if isVar m then 7 else 514) : decodeCell (W.take k) = .error .incompleteData := by
  have hlen : (W.take k).length ≤ k := List.length_take_le k W
  obtain h5 | h5 := Nat.lt_or_ge k 5
  · exact decodeCell_short (hlen.trans_lt h5)
  have hm : (W.take k)[4]? = some m := by rw [List.getElem?_take_of_lt h5, hW]
  cases hv : isVar m with
  | true =>
    rw [hv] at hk
    rw [decodeCell_var hv hm, classDecodeVar_short (hlen.trans_lt hk)]
  | false =>
    rw [hv] at hk
    rw [decodeCell_fixed hv hm, classDecodeFixed_short (hlen.trans_lt hk)]

/-- Cut behind its Length and before the end of its body, a variable-length frame is truncated (R93, R119). -/
theorem decodeCell_take_truncated {W : Bytes} {x : ChannelCell} {k : Nat} (hm : isVar x.cmd = true) (hfits : x.Fits)
    (hprefix : x.frame <+: W) (hW : k ≤ W.length) (h7 : 7 ≤ k) (hk : k < 7 + x.body.length) :
    decodeCell (W.take k) = .error .truncatedBody := by
  have hhdr : encHdr x.circ x.cmd ++ toBe16 x.body.length <+: W.take k :=
    List.prefix_take_iff.2 ⟨(ChannelCell.varHeader_prefix_frame hm).trans hprefix, h7⟩
  have hcmd := getElem?_of_header_prefix ((List.prefix_append _ _).trans hhdr)
  have hL := be16_of_varHeader_prefix (encHdr_length ..) ((ChannelCell.fits_var hm).1 hfits) hhdr
  have hlen : (W.take k).length = k := List.length_take_of_le hW
  rw [decodeCell_var hm hcmd, classDecodeVar_truncated (by rwa [hlen]) (by rwa [hlen, hL])]

/-- Settles O35: what is cut off are bytes that the framing asks for of every frame, or bytes of the body that the Length counts. -/
theorem prefixesOfAFrameFail : Obligations.PrefixesOfAFrameFail := by
  intro W x k h hlen hk
  obtain ⟨hfits, -, hprefix⟩ := frame_prefix_of_decodeCell h
  have hcmd : W[4]? = some x.cmd := getElem?_of_header_prefix (x.header_prefix_frame.trans hprefix)
  refine ⟨fun h4 => decodeCell_take_incomplete hcmd (by split <;> omega), fun hm => decodeCell_take_incomplete hcmd ?_,
    fun hm h6 => decodeCell_take_incomplete hcmd ?_, fun hm h7 => decodeCell_take_truncated hm hfits hprefix hk.le h7 ?_⟩
  · rw [frameLen_fixed hm] at hlen
    rw [if_neg (by simp [hm])]
    omega
  · rw [if_pos hm]
    omega
  · rw [frameLen_var hm] at hlen
    omega

/-! ## Lengths and ranges -/

theorem frameLen_range {x : ChannelCell} (h : x.Fits) :
    frameLen x.cmd x.body.length = 514 ∨ (7 ≤ frameLen x.cmd x.body.length ∧ frameLen x.cmd x.body.length ≤ 65542) := by
  cases hm : isVar x.cmd with
  | true =>
    have hn := (ChannelCell.fits_var hm).1 h
    rw [frameLen_var hm]
    omega
  | false => exact .inl (frameLen_fixed hm _)

/-- Settles O36: of a frame that is encoded, from its header and its length; of a decoded cell, because it fits and is kept whole. -/
theorem frameLengthsAndRanges : Obligations.FrameLengthsAndRanges := by
  refine ⟨fun c m body W h => ?_, fun W x h => ?_⟩
  · obtain ⟨hfits, rfl⟩ := frame_of_encodeCell h
    have hlen := ChannelCell.frame_length hfits
    have hcmd := getElem?_of_header_prefix (ChannelCell.header_prefix_frame ⟨c, m, body⟩)
    refine ⟨hlen, hlen ▸ frameLen_range hfits, rfl, hcmd, fun hm => ⟨?_, ?_⟩⟩
    · exact be16_of_varHeader_prefix (encHdr_length c m) ((ChannelCell.fits_var hm).1 hfits) 
        (ChannelCell.varHeader_prefix_frame (x := ⟨c, m, body⟩) hm)
    · rw [hlen, frameLen_var hm, Nat.add_sub_cancel_left]
  · obtain ⟨hfits, hkept, hprefix⟩ := frame_prefix_of_decodeCell h
    have hlen : frameLen x.cmd x.body.length ≤ W.length := ChannelCell.frame_length hfits ▸ hprefix.length_le
    refine ⟨fun hm => ⟨(ChannelCell.fits_fixed hm).1 hfits, ?_⟩, fun hm => (ChannelCell.fits_var hm).1 hfits, ?_⟩
    · exact (strip_eq_self_iff _).1 ((ChannelCell.kept_eq_self_iff hm).1 hkept)
    · cases hm : isVar x.cmd with
      | true => exact hlen
      | false => rwa [frameLen_fixed hm] at hlen ⊢

end Sys2Proof.Machine
end

section
/-! PROOFS. The two operations at the ports (45_operations.md R122 to R124; 60_exceptions.md R126, R132, R136), and that every step of a
good state answers. -/

namespace Sys2Proof.Machine

/-! ## DECODE and ENCODE by what their operation gives -/

theorem exec_decode_ok {s : State} {x : ChannelCell} (h : decodeCell s.input = .ok x) :
    exec .decode s = .next (s.answerCell x) := by
  rw [exec, execDecode, h]

theorem exec_decode_error {s : State} {e : DecodeError} (h : decodeCell s.input = .error e) :
    exec .decode s = .next (s.raise e.kind) := by
  rw [exec, execDecode, h]

theorem exec_encode_ok {s : State} {W : Bytes} (h : encodeCell s.reqCircId s.reqCmd s.input = .ok W) :
    exec .encode s = .next (s.answerFrame W) := by
  rw [exec, execEncode, h]

theorem exec_encode_error {s : State} {e : EncodeError} (h : encodeCell s.reqCircId s.reqCmd s.input = .error e) :
    exec .encode s = .next (s.raise e.kind) := by
  rw [exec, execEncode, h]

/-- Settles O37: the cell's response, or the error's with its code (R126, decision D5). -/
theorem decodeAtThePorts : Obligations.DecodeAtThePorts := fun s =>
  ⟨fun x h => ⟨_, exec_decode_ok h, s.answerCell_gaveCell x⟩, fun h => ⟨_, exec_decode_error h, s.raise_gaveError _, rfl⟩,
    fun h => ⟨_, exec_decode_error h, s.raise_gaveError _, rfl⟩⟩

/-- Settles O38: the frame's response, or the error's with its code and reason (R126, decisions D5, D6). -/
theorem encodeAtThePorts : Obligations.EncodeAtThePorts := fun s =>
  ⟨fun W h => ⟨_, exec_encode_ok h, s.answerFrame_gaveFrame W⟩, fun h => ⟨_, exec_encode_error h, s.raise_gaveError _, rfl⟩,
    fun h => ⟨_, exec_encode_error h, s.raise_gaveError _, rfl, rfl⟩,
    fun h => ⟨_, exec_encode_error h, s.raise_gaveError _, rfl, rfl⟩⟩

/-! ## Every step answers -/

/-- Every instruction answers a next state, but ENC.FIX entered with a body that VAL.LEN refuses (R104, log 13). -/
theorem exec_answers {i : Instr} {s : State} (hfix : ∀ m, i = .encFix m → s.inLen ≤ 509) : ∃ t, exec i s = .next t := by
  cases i with
  | decode =>
    cases h : decodeCell s.input with
    | error e => exact ⟨_, exec_decode_error h⟩
    | ok x => exact ⟨_, exec_decode_ok h⟩
  | encode =>
    cases h : encodeCell s.reqCircId s.reqCmd s.input with
    | error e => exact ⟨_, exec_encode_error h⟩
    | ok W => exact ⟨_, exec_encode_ok h⟩
  | cmd0 | cmd1to6 | cmd7 | cmd8to127 | cmd128 | cmd129to255 | encHdr => exact ⟨_, rfl⟩
  | hdrParse =>
    cases h : hdrParse s.input with
    | error e => exact ⟨_, execHdrParse_error h⟩
    | ok cm => exact ⟨_, execHdrParse_ok h⟩
  | extFix m => exact ⟨_, exec_extFix m s⟩
  | extVar m => exact ⟨_, exec_extVar m s⟩
  | valLen m => exact ⟨_, exec_valLen m s⟩
  | valCirc m => exact ⟨_, exec_valCirc m s⟩
  | validate m => exact ⟨_, exec_validate m s⟩
  | encVar m =>
    obtain hn | hn := Nat.lt_or_ge 65535 s.inLen
    · exact ⟨_, exec_encVar_tooLong hn m⟩
    · exact ⟨_, exec_encVar_ok hn m⟩
  | encFix m => exact ⟨_, exec_encFix_ok (hfix m rfl) m⟩

theorem decodeOp_ne_encFix (op : BitVec 1) (m : Command) : decodeOp op ≠ .encFix m := by
  unfold decodeOp
  split <;> exact nofun

/-- Where the cursor agrees with the rest of the state a row of the table runs, and at ENC.FIX the length has been checked (R28, R99). -/
theorem State.StageInv.selector_decodes {s : State} (h : s.StageInv) :
    ∃ i, decodeSelector s.selector = .ok i ∧ ∀ m, i = .encFix m → s.inLen ≤ 509 := by
  have hat {st : Stage} (hst : s.stage = st) (hne : st ≠ .idle) {o : BitVec 1} (ho : s.op = o) {m : Command} (hg : s.governing = m)
      {i : Instr} (hd : decodeSelector (.uop st (selOf o m)) = .ok i) : decodeSelector s.selector = .ok i := by
    subst hst
    rwa [State.selector_at_stage hne ho hg]
  unfold State.StageInv at h
  split at h
  next hst => exact ⟨_, by rw [State.selector, if_pos hst]; rfl, fun m hi => absurd hi (decodeOp_ne_encFix s.op m)⟩
  next hst => exact ⟨_, hat hst nofun h rfl (decode_d0 _), nofun⟩
  next hst =>
    obtain ⟨ho, -, hm⟩ := h
    exact ⟨_, hat hst nofun ho (State.governing_decode ho (by simp [hst])) (decode_d3f _ hm), nofun⟩
  next hst =>
    obtain ⟨ho, -, hm⟩ := h
    exact ⟨_, hat hst nofun ho (State.governing_decode ho (by simp [hst])) (decode_d3v _ hm), nofun⟩
  next hst => exact ⟨_, hat hst nofun h (State.governing_encode h) (decode_e0 _), nofun⟩
  next hst => exact ⟨_, hat hst nofun h (State.governing_encode h) (decode_e01 _), nofun⟩
  next hst => exact ⟨_, hat hst nofun h.1 (State.governing_encode h.1) (decode_e1 _), nofun⟩
  next hst => exact ⟨_, hat hst nofun h.1 (State.governing_encode h.1) (decode_e2 _), nofun⟩
  next hst =>
    obtain ⟨ho, hval, hm⟩ := h
    exact ⟨_, hat hst nofun ho (State.governing_encode ho) (decode_e3f _ hm), fun _ _ => validate_length hval hm⟩
  next hst =>
    obtain ⟨ho, -, hm⟩ := h
    exact ⟨_, hat hst nofun ho (State.governing_encode ho) (decode_e3v _ hm), nofun⟩

/-- Settles O55: with no transaction in progress the step waits; otherwise the selector decodes, and what it decodes to answers. -/
theorem everyStepAnswers : Obligations.EveryStepAnswers := by
  intro s hs
  by_cases hp : s.inProgress
  · obtain ⟨i, hd, hfix⟩ := hs.stage.selector_decodes
    rw [step_of_fetch (fetch_of_decode hs.version hp hd)]
    exact exec_answers hfix
  · exact ⟨s, step_waits hs.version hp⟩

end Sys2Proof.Machine
end

section
/-! PROOFS. Several instances: a step of one reads and writes that one alone. -/

namespace Sys2Proof.Machine

/-- A number no instance has leaves all as they are. -/
theorem stepInstance_none {k : Nat} {xs : List State} (h : xs[k]? = none) : stepInstance k xs = .next xs := by
  simp only [stepInstance, h]

theorem stepInstance_some {k : Nat} {xs : List State} {s t : State} (h : xs[k]? = some s) (hstep : step s = .next t) :
    stepInstance k xs = .next (xs.set k t) := by
  simp only [stepInstance, h, hstep]

theorem stepTwo_of_next {j k : Nat} {xs ys : List State} (h : stepInstance j xs = .next ys) :
    stepTwo j k xs = stepInstance k ys := by
  simp only [stepTwo, h]

/-- A step of instance `k` writes at `k` alone, and what it writes is the same in every list that agrees at `k` (R145). Where no
instance is numbered `k` the write is past the end and changes nothing. -/
theorem stepInstance_local {xs : List State} (hxs : ∀ s ∈ xs, s.Inv) (k : Nat) :
    ∃ t, ∀ ys : List State, ys[k]? = xs[k]? → stepInstance k ys = .next (ys.set k t) := by
  cases hk : xs[k]? with
  | none =>
    refine ⟨State.reset, fun ys hys => ?_⟩
    rw [stepInstance_none hys, List.set_eq_of_length_le (List.getElem?_eq_none_iff.1 hys)]
  | some s =>
    obtain ⟨t, ht⟩ := everyStepAnswers s (hxs s (List.mem_of_getElem? hk))
    exact ⟨t, fun ys hys => stepInstance_some hys ht⟩

/-- Settles O58: each step leaves the other's instance as it was, and writes at two different numbers commute. -/
theorem instancesAreIndependent : Obligations.InstancesAreIndependent := by
  intro xs j k hxs hjk
  obtain ⟨t, hj⟩ := stepInstance_local hxs j
  obtain ⟨u, hk⟩ := stepInstance_local hxs k
  have hjk_next : stepTwo j k xs = .next ((xs.set j t).set k u) :=
    (stepTwo_of_next (hj xs rfl)).trans (hk _ (List.getElem?_set_ne hjk))
  have hkj_next : stepTwo k j xs = .next ((xs.set k u).set j t) :=
    (stepTwo_of_next (hk xs rfl)).trans (hj _ (List.getElem?_set_ne hjk.symm))
  exact ⟨by rw [hjk_next, hkj_next, List.set_comm t u hjk], _, hjk_next⟩

end Sys2Proof.Machine
end

section
/-! PROOFS. The host's moves between steps keep the invariant (70_reset_and_hazards.md R147 to R152): construction, reset, and a request
placed. -/

namespace Sys2Proof.Machine

/-! ## A request placed -/

/-- The registers and the input of a request written, and the request pending (R150, log 21). -/
def State.placeRequest (s : State) (op : BitVec 1) (c : CircId) (m : Command) (W : Bytes) : State :=
  { s.loadInput W with op := op, reqCircId := c, reqCmd := m, pending := true }

/-- A DECODE that is presented was admitted and is placed, the registers it does not use as they were. -/
theorem State.presentDecode_next_inv {s t : State} {W : Bytes} (h : s.presentDecode W = .next t) :
    s.admits W.length = .ok () ∧ t = s.placeRequest 0 s.reqCircId s.reqCmd W := by
  cases ha : s.admits W.length with
  | error r =>
    rw [State.presentDecode_error ha] at h
    cases h
  | ok u =>
    rw [State.presentDecode_ok ha] at h
    cases h
    exact ⟨rfl, rfl⟩

/-- An ENCODE that is presented was admitted and is placed. -/
theorem State.presentEncode_next_inv {s t : State} {c : CircId} {m : Command} {W : Bytes} (h : s.presentEncode c m W = .next t) :
    s.admits W.length = .ok () ∧ t = s.placeRequest 1 c m W := by
  cases ha : s.admits W.length with
  | error r =>
    rw [State.presentEncode_error ha] at h
    cases h
  | ok u =>
    rw [State.presentEncode_ok ha] at h
    cases h
    exact ⟨rfl, rfl⟩

/-! ## The invariant -/

theorem State.stageInv_of_idle {s : State} (h : s.stage = .idle) : s.StageInv ↔ s.circ = 0#32 ∧ s.cmd = 0#8 := by
  rw [State.StageInv, h]

/-- Reset at any time gives the reset condition, of which only the model's counters differ (R31, R147). -/
theorem State.inv_applyReset (s : State) : s.applyReset.Inv := by
  have h : State.reset.Inv := resetHasTheInvariant.1
  exact { h with stage := (State.stageInv_of_idle rfl).2 ⟨rfl, rfl⟩ }

/-- A request is placed while the cursor is idle, and writes only bytes of IBUF that exist: its length fits IN_LEN. -/
theorem State.Inv.placeRequest {s : State} (hs : s.Inv) {W : Bytes} (h : s.admits W.length = .ok ()) (op : BitVec 1) (c : CircId)
    (m : Command) : (s.placeRequest op c m W).Inv := by
  obtain ⟨hidle, hlen⟩ := State.admits_ok.1 h
  have hstage : s.stage = .idle := not_not.1 fun hne => hidle (.inr hne)
  exact { hs with
    inLen := hlen
    ibufWf := Mem.wf_writeBytes hs.ibufWf 0 W
    ibufAddr := Mem.addr_lt_writeBytes hs.ibufAddr (by omega)
    stage := (State.stageInv_of_idle (s := s.placeRequest op c m W) hstage).2 ((State.stageInv_of_idle hstage).1 hs.stage)
    pending := fun _ => rfl }

theorem construct_next_inv {v : BitVec 8} {t : State} (h : State.construct v = .next t) : t = State.reset := by
  unfold State.construct at h
  split at h <;> cases h
  rfl

/-- Settles O56: construction and reset give the reset condition, and a request presented is one admitted and placed. -/
theorem hostMovesKeepTheInvariant : Obligations.HostMovesKeepTheInvariant := by
  refine ⟨fun v t h => ?_, fun s hs => ⟨s.inv_applyReset, fun W t h => ?_, fun c m body t h => ?_⟩⟩
  · obtain rfl := construct_next_inv h
    exact resetHasTheInvariant.1
  · obtain ⟨ha, rfl⟩ := State.presentDecode_next_inv h
    exact hs.placeRequest ha 0 s.reqCircId s.reqCmd
  · obtain ⟨ha, rfl⟩ := State.presentEncode_next_inv h
    exact hs.placeRequest ha 1 c m

end Sys2Proof.Machine
end

section
/-! PROOFS. What the host reads (70_reset_and_hazards.md R152; 10_state.md R30, R32): before the first transaction, during one, and after
each of its outcomes. -/

namespace Sys2Proof.Machine

/-! ## Between transactions -/

/-- Between transactions the two reads give the response and the registers it defines. -/
theorem State.hostReads_idle {t : State} {r : Option Response} {v : ResponseView} (hidle : ¬ t.inProgress) (hr : t.response = r)
    (hv : t.responseView = v) : t.hostReadResponse = .next r ∧ t.hostReadRegisters = .next v := by
  rw [State.hostReadResponse, State.hostReadRegisters, State.hostRead_idle hidle, State.hostRead_idle hidle, hr, hv]
  exact ⟨rfl, rfl⟩

theorem State.response_first {s : State} (h : s.lastOp = none) : s.response = none := by
  rw [State.response, h]

theorem State.responseView_first {s : State} (h : s.lastOp = none) :
    s.responseView = ⟨s.status, some s.reason, some s.rspCircId, some s.rspCmd, some s.outLen⟩ := by
  rw [State.responseView, h]

/-- Before the first transaction there is no response, and every register and byte of OBUF reads (R32). -/
theorem State.hostReads_first {r : State} (hidle : ¬ r.inProgress) (ho : r.lastOp = none) :
    r.hostReadResponse = .next none ∧
      (∃ st rs ci cm n, r.hostReadRegisters = .next ⟨st, some rs, some ci, some cm, some n⟩) ∧
      ∀ a, a < 2 ^ Config.lenW → ∃ b, r.hostReadObuf a = .next b := by
  obtain ⟨hresp, hregs⟩ := State.hostReads_idle hidle (State.response_first ho) (State.responseView_first ho)
  exact ⟨hresp, ⟨_, _, _, _, _, hregs⟩, fun a ha => ⟨_, State.hostReadObuf_first ha hidle ho⟩⟩

/-! ## The transaction as a step -/

/-- For a request presented a step is the transaction OP selects, by what `decode` and `encode` of the request answer (R123, R124). -/
theorem step_presented {s : State} (hv : s.linkVersion = 4#8) (hs : s.stage = .idle) (hp : s.pending = true) :
    step s = .next (s.transact (decodeCell s.input) (encodeCell s.reqCircId s.reqCmd s.input)) := by
  unfold State.transact
  obtain ho | ho := BitVec.eq_zero_or_eq_one s.op
  · rw [step_presented_decode hv hs hp ho, execDecode, if_pos ho]
    cases decodeCell s.input <;> rfl
  · rw [step_presented_encode hv hs hp ho, execEncode, if_neg (by simp [ho])]
    cases encodeCell s.reqCircId s.reqCmd s.input <;> rfl

section
variable {s : State} {d : Except DecodeError ChannelCell} {e : Except EncodeError Bytes}

theorem State.transact_decode (ho : s.op = 0#1) :
    s.transact d e = match d with | .error k => s.raise k.kind | .ok c => s.answerCell c := by
  cases d <;> exact if_pos ho

theorem State.transact_encode (ho : s.op = 1#1) :
    s.transact d e = match e with | .error k => s.raise k.kind | .ok W => s.answerFrame W := by
  cases e <;> exact if_neg (by simp [ho])

/-! ## After a transaction: the response and the registers -/

theorem State.hostReads_decodeError (ho : s.op = 0#1) {k : DecodeError} (hd : d = .error k) {v : ResponseView}
    (hv : (s.raise k.kind).responseView = v) :
    (s.transact d e).hostReadResponse = .next (some (.error k.kind)) ∧ (s.transact d e).hostReadRegisters = .next v := by
  rw [State.transact_decode ho, hd]
  exact State.hostReads_idle (State.not_inProgress rfl rfl) (s.raise_response k.kind) hv

theorem State.hostReads_cell (ho : s.op = 0#1) {c : ChannelCell} (hd : d = .ok c) :
    (s.transact d e).hostReadResponse = .next (some (.cell c)) ∧
      (s.transact d e).hostReadRegisters = .next ⟨0#3, none, some c.circ, some c.cmd, some c.body.length⟩ := by
  rw [State.transact_decode ho, hd]
  exact State.hostReads_idle (State.not_inProgress rfl rfl) (s.answerCell_response c ho) (s.answerCell_view c ho)

theorem State.hostReads_encodeError (ho : s.op = 1#1) {k : EncodeError} (he : e = .error k) {v : ResponseView}
    (hv : (s.raise k.kind).responseView = v) :
    (s.transact d e).hostReadResponse = .next (some (.error k.kind)) ∧ (s.transact d e).hostReadRegisters = .next v := by
  rw [State.transact_encode ho, he]
  exact State.hostReads_idle (State.not_inProgress rfl rfl) (s.raise_response k.kind) hv

theorem State.hostReads_frame (ho : s.op = 1#1) {W : Bytes} (he : e = .ok W) :
    (s.transact d e).hostReadResponse = .next (some (.frame W)) ∧
      (s.transact d e).hostReadRegisters = .next ⟨0#3, none, none, none, some W.length⟩ := by
  rw [State.transact_encode ho, he]
  exact State.hostReads_idle (State.not_inProgress rfl rfl) (s.answerFrame_response W ho) (s.answerFrame_view W ho)

end

/-! ## After a transaction: OBUF -/

/-- The bytes of OBUF that hold a value are those of a success below OUT_LEN (R25, R30). -/
def State.ObufIsOutput (t : State) : Prop := ∀ a, (t.obuf.read a).isSome = true ↔ t.status = 0#3 ∧ a < t.outLen

theorem Mem.isSome_read_cellsAt_zero (v : Bytes) (a : Nat) : ((Mem.cellsAt 0 v).read a).isSome = true ↔ a < v.length := by
  simp [Mem.read_cellsAt]

theorem statusCode_ne_zero (k : ErrorKind) : statusCode k ≠ 0#3 := by
  cases k <;> simp [statusCode]

theorem State.raise_obufIsOutput (s : State) (k : ErrorKind) : (s.raise k).ObufIsOutput := by
  intro a
  simp [statusCode_ne_zero]

theorem State.answerCell_obufIsOutput (s : State) (c : ChannelCell) : (s.answerCell c).ObufIsOutput := by
  intro a
  simp [Mem.isSome_read_cellsAt_zero]

theorem State.answerFrame_obufIsOutput (s : State) (W : Bytes) : (s.answerFrame W).ObufIsOutput := by
  intro a
  simp [Mem.isSome_read_cellsAt_zero]

theorem State.transact_obufIsOutput (s : State) (d : Except DecodeError ChannelCell) (e : Except EncodeError Bytes) :
    (s.transact d e).ObufIsOutput := by
  obtain ho | ho := BitVec.eq_zero_or_eq_one s.op
  · rw [State.transact_decode ho]
    cases d with
    | error k => exact s.raise_obufIsOutput k.kind
    | ok c => exact s.answerCell_obufIsOutput c
  · rw [State.transact_encode ho]
    cases e with
    | error k => exact s.raise_obufIsOutput k.kind
    | ok W => exact s.answerFrame_obufIsOutput W

theorem State.output_getElem? {t : State} {a : Nat} (h : a < t.outLen) : t.output[a]? = some (t.obufByte a) := by
  simp [State.output, h]

section
variable {t : State} {o : BitVec 1} {a : Nat} (hidle : ¬ t.inProgress) (ho : t.lastOp = some o) (hobuf : t.ObufIsOutput)
  (ha : a < 2 ^ Config.lenW)
include hidle ho hobuf ha

/-- A byte that is none of the output is the host's fault (R152, U1). -/
theorem State.hostReadObuf_unspecified (h : ¬ (t.status = 0#3 ∧ a < t.outLen)) : t.hostReadObuf a = .fault (.unspecifiedByte a) := by
  have hnone : t.obuf.read a = none := by
    rw [← Option.not_isSome_iff_eq_none]
    exact mt (hobuf a).1 h
  rw [State.hostReadObuf_eq ha hidle ho, hnone]

/-- A byte of the output is read. -/
theorem State.hostReadObuf_output (h : t.status = 0#3) (hlen : a < t.outLen) :
    ∃ b, t.hostReadObuf a = .next b ∧ t.output[a]? = some b := by
  obtain ⟨b, hb⟩ := Option.isSome_iff_exists.1 ((hobuf a).2 ⟨h, hlen⟩)
  refine ⟨b, ?_, ?_⟩
  · rw [State.hostReadObuf_eq ha hidle ho, hb]
  · rw [State.output_getElem? hlen, State.obufByte, hb, Option.getD_some]

end

/-! ## While a request is presented -/

/-- Presenting a request changes nothing that would be read (R46, R48). -/
theorem State.placeRequest_reads (s : State) (op : BitVec 1) (c : CircId) (m : Command) (W : Bytes) :
    (s.placeRequest op c m W).pending = true ∧ (s.placeRequest op c m W).response = s.response ∧
      (s.placeRequest op c m W).responseView = s.responseView ∧ ∀ a, (s.placeRequest op c m W).obufView a = s.obufView a :=
  ⟨rfl, rfl, rfl, fun _ => rfl⟩

/-- Settles O59: before the first transaction all reads answer, during one none does, and after one those of what its outcome defined;
a request placed is on the request side alone. -/
theorem hostReadsOnlyWhatIsDefined : Obligations.HostReadsOnlyWhatIsDefined := by
  refine fun s => ⟨fun a ha => if_neg (Nat.not_lt.2 ha), fun hbusy => ?busy, fun r hr => ?first, fun hv hs hp => ?answered,
    fun W t h => ?decode, fun c m W t h => ?encode⟩
  case busy =>
    exact ⟨State.hostRead_busy hbusy _, State.hostRead_busy hbusy _,
      fun a ha => (if_pos ha).trans (State.hostRead_busy hbusy _)⟩
  case first =>
    obtain rfl | rfl := hr
    · exact State.hostReads_first (State.not_inProgress rfl rfl) rfl
    · exact State.hostReads_first s.applyReset_not_inProgress rfl
  case answered =>
    have hans := s.transact_answered (d := decodeCell s.input) (e := encodeCell s.reqCircId s.reqCmd s.input)
      (fun _ => decodeCell_length) (fun _ => encodeCell_length)
    obtain ⟨-, hidle, -, -, -, hlast, hpend⟩ := hans.finished
    have hnot := State.not_inProgress hidle hpend
    have hobuf := s.transact_obufIsOutput (decodeCell s.input) (encodeCell s.reqCircId s.reqCmd s.input)
    exact ⟨_, step_presented hv hs hp,
      fun ho c hd => State.hostReads_cell ho hd,
      fun ho hd => State.hostReads_decodeError ho hd rfl,
      fun ho hd => State.hostReads_decodeError ho hd rfl,
      fun ho W he => State.hostReads_frame ho he,
      fun ho he => State.hostReads_encodeError ho he rfl,
      fun ho he => State.hostReads_encodeError ho he rfl,
      fun ho he => State.hostReads_encodeError ho he rfl,
      fun a ha hnone => State.hostReadObuf_unspecified hnot hlast hobuf ha hnone,
      fun hok a hlt => State.hostReadObuf_output hnot hlast hobuf (hlt.trans hans.outLen_lt) hok hlt⟩
  case decode =>
    obtain ⟨-, rfl⟩ := State.presentDecode_next_inv h
    exact s.placeRequest_reads 0 s.reqCircId s.reqCmd W
  case encode =>
    obtain ⟨-, rfl⟩ := State.presentEncode_next_inv h
    exact s.placeRequest_reads 1 c m W

end Sys2Proof.Machine
end
